-- ==== Sys2Proof/Word.lean ====
section
/-! DEFINITION. The data formats of 30_encoding.md R45 as fixed-width bit vectors, and the shape of a permutation
table. Position `{1}` of a bit sequence of length n is the most significant bit of `BitVec n` (00_scope.md R7). -/

namespace Sys2Proof

abbrev Byte := BitVec 8

/-- R45 `Block64`: a block, positions 1 to 32 the left half and 33 to 64 the right half. -/
abbrev Block64 := BitVec 64

/-- R45 `Key64`: a key before PC1; any value is a legal key (10_state.md R12). -/
abbrev Key64 := BitVec 64

/-- R45 `CD56`: the key after PC1. -/
abbrev CD56 := BitVec 56

/-- R45 `KeyHalf28`: C or D. -/
abbrev KeyHalf28 := BitVec 28

/-- R45 `Sub48`: a round subkey, an expanded half-block, an S-box input. -/
abbrev Sub48 := BitVec 48

/-- R45 `Half32`: a half-block, an S-box output. -/
abbrev Half32 := BitVec 32

/-- R46 `Chunk6`: the input of one S-box. -/
abbrev Chunk6 := BitVec 6

/-- R47 `Nibble4`: one S-box entry. -/
abbrev Nibble4 := BitVec 4

/-- A bit sequence of any length, leftmost bit first (00_scope.md R7), for the codecs and the untyped functions. -/
abbrev Bits := List Bool

/-- A character as its code point, and a text as a sequence of them (40_bitvector.md R70; log 14). -/
abbrev CodePoint := Nat
abbrev Text := List CodePoint

/-- One S-box: 4 rows of 16 entries (41_sbox.md R84). -/
abbrev SBox := Vector (Vector Nibble4 16) 4

/-- A permutation table of `m` 1-based source positions into an input of `L` bits. It carries its bound, so an index
out of range (U1 of 93_implementation_defined.md) cannot be written (20_memory.md R40, 70_reset_and_hazards.md R175). -/
structure PermTable (L m : Nat) where
  entries : List Nat
  length_eq : entries.length = m
  inRange : ∀ t ∈ entries, 1 ≤ t ∧ t ≤ L

end Sys2Proof
end

