-- ==== Sys2Proof/Syntax.lean ====
section
/-! DEFINITION. The operations of 30_encoding.md R52, one constructor per row of spec/opcode_table.json. Operands are
implicit (R51, R54); the one field is `P = CMD[4]`, `usePadding`, of MENC and MDEC. -/

namespace Sys2Proof

inductive Instr where
  /-- SUBST, 41_sbox.md R80 -/
  | subst
  /-- KSCHED, 42_key_schedule.md R90 -/
  | ksched
  /-- FFUNC, 43_feistel.md R100 -/
  | ffunc
  /-- ROUND, 43_feistel.md R103 -/
  | round
  /-- DESENC, 44_des_block.md R110 -/
  | desenc
  /-- DESDEC, 44_des_block.md R111 -/
  | desdec
  /-- TENC, 45_tdes_ecb.md R120 -/
  | tenc
  /-- TDEC, 45_tdes_ecb.md R121 -/
  | tdec
  /-- MENC (`p = false`) and MENC.P (`p = true`), 45_tdes_ecb.md R127 -/
  | menc (p : Bool)
  /-- MDEC (`p = false`) and MDEC.P (`p = true`), 45_tdes_ecb.md R128 -/
  | mdec (p : Bool)
deriving DecidableEq, Repr

end Sys2Proof
end

