-- ==== Sys2Proof/WellFormed.lean ====
section
/-! DEFINITION. Which command words are legal (30_encoding.md R51 to R53), on the fields of the word; and that an
instruction of the syntax has legal fields. -/

namespace Sys2Proof

/-- The three fields of `CMD` (R51): `OP = CMD[3:0]`, `P = CMD[4]`, and `CMD[7:5]`, which must be 0. -/
structure CommandFields where
  op : BitVec 4
  p : Bool
  zero : BitVec 3
deriving DecidableEq, Repr

/-- R51: "`CMD[7:5]` must be 0." -/
def CommandFields.reservedOk (f : CommandFields) : Bool := f.zero == 0

/-- R52: ten values of `OP` are assigned, 0x1 to 0xA. -/
def CommandFields.opAssigned (f : CommandFields) : Bool := 1 ≤ f.op.toNat && f.op.toNat ≤ 10

/-- R52: "For the eight block-level operations `P` must be 0." -/
def CommandFields.paddingOk (f : CommandFields) : Bool := !f.p || f.op == 9 || f.op == 10

/-- R53: a command word is legal exactly when all three hold. -/
def CommandFields.wellFormed (f : CommandFields) : Bool := f.reservedOk && f.opAssigned && f.paddingOk

/-- R52: the fields each operation is encoded with. -/
def Instr.fields : Instr → CommandFields
  | .subst => ⟨0x1, false, 0⟩
  | .ksched => ⟨0x2, false, 0⟩
  | .ffunc => ⟨0x3, false, 0⟩
  | .round => ⟨0x4, false, 0⟩
  | .desenc => ⟨0x5, false, 0⟩
  | .desdec => ⟨0x6, false, 0⟩
  | .tenc => ⟨0x7, false, 0⟩
  | .tdec => ⟨0x8, false, 0⟩
  | .menc p => ⟨0x9, p, 0⟩
  | .mdec p => ⟨0xA, p, 0⟩

/-- An instruction is well formed when its command word is legal; the types already leave no other (R54: "there is
no other operand form"). -/
def Instr.wellFormed (i : Instr) : Bool := i.fields.wellFormed

end Sys2Proof
end

