-- ==== Sys2Proof/Decode.lean ====
section
/-! DEFINITION. Decoding the 8-bit command word (30_encoding.md R51 to R53), total and rejecting by name, and the
encoder. Every rejection is the one error `E_ILLOP` of 60_exceptions.md R153. -/

namespace Sys2Proof

/-- Why a command word is illegal (R53). -/
inductive DecodeError where
  /-- "any value with a bit of `CMD[7:5]` set" -/
  | reservedBitsSet
  /-- "`OP` = 0x0 or 0xB to 0xF" -/
  | unassignedOpcode
  /-- "`P = 1` with `OP` 0x1 to 0x8" -/
  | paddingNotAllowed
deriving DecidableEq, Repr

/-- R51: the fields of a command word; bit 0 is the least significant (00_scope.md R8). -/
def commandFields (c : BitVec 8) : CommandFields :=
  { op := c.extractLsb' 0 4, p := c.getLsbD 4, zero := c.extractLsb' 5 3 }

/-- R51: the command word of given fields. -/
def commandWord (f : CommandFields) : BitVec 8 := f.zero ++ BitVec.ofBool f.p ++ f.op

/-- The block-level operation a word with `P = 0` names; `P = 1` is illegal there (R53). -/
def withoutPadding (p : Bool) (i : Instr) : Except DecodeError Instr :=
  if p then .error .paddingNotAllowed else .ok i

/-- R52: the operation `OP` and `P` select. -/
def decodeOp (op : BitVec 4) (p : Bool) : Except DecodeError Instr :=
  match op.toNat with
  | 0x1 => withoutPadding p .subst
  | 0x2 => withoutPadding p .ksched
  | 0x3 => withoutPadding p .ffunc
  | 0x4 => withoutPadding p .round
  | 0x5 => withoutPadding p .desenc
  | 0x6 => withoutPadding p .desdec
  | 0x7 => withoutPadding p .tenc
  | 0x8 => withoutPadding p .tdec
  | 0x9 => .ok (.menc p)
  | 0xA => .ok (.mdec p)
  | _ => .error .unassignedOpcode

/-- R53: decode of every one of the 256 values of `CMD`. -/
def decode (c : BitVec 8) : Except DecodeError Instr :=
  let f := commandFields c
  if f.reservedOk then decodeOp f.op f.p else .error .reservedBitsSet

/-- R52: the command word of an operation. -/
def encode (i : Instr) : BitVec 8 := commandWord i.fields

/-- The decoder on bits numbered as spec/opcode_table.json numbers them. The command word is 8 bits (R51), so the bits
above `nbits` are 0 and a word with a set bit above the eighth is no command word. -/
def decodeTableWord (nbits w : Nat) : Option Instr :=
  let v := w % 2 ^ nbits
  if v < 256 then (decode (BitVec.ofNat 8 v)).toOption else none

/-- The byte `decodeTableWord` reads, for placing it where the step fetches. -/
def tableWordByte (nbits w : Nat) : BitVec 8 := BitVec.ofNat 8 (w % 2 ^ nbits)

end Sys2Proof
end

