-- ==== Sys2Proof/Machine/BitVector.lean ====
section
/-! DEFINITION. The bit-level primitives and the byte codec of 40_bitvector.md (R65 to R69). Position i of a sequence
counts from 1 at the left (00_scope.md R7). -/

namespace Sys2Proof.Machine

/-- R7: `val(b)`, the number a bit sequence spells. -/
def val (b : Bits) : Nat := b.foldl (fun acc x => 2 * acc + x.toNat) 0

/-- R7: `bits_n` of the number a sequence spells; of a sequence of length n, that sequence. -/
def ofBits (n : Nat) (b : Bits) : BitVec n := BitVec.ofNat n (val b)

/-- R7: `b{i}`, for `1 ≤ i ≤ n`. -/
def bitAt {n : Nat} (b : BitVec n) (i : Nat) : Bool := b.getMsbD (i - 1)

/-- The sequence `b{1..n}`. -/
def toBits {n : Nat} (b : BitVec n) : Bits := (List.range n).map fun k => bitAt b (k + 1)

/-- R65: output bit i is input bit `table[i]`; the output is as long as the table. -/
def permute {L m : Nat} (b : BitVec L) (T : PermTable L m) : BitVec m := ofBits m (T.entries.map (bitAt b))

/-- R66: rotation left by `n` positions, `n < L` carried in the type (U2). -/
def rotl {L : Nat} (b : BitVec L) (n : Fin L) : BitVec L := b.rotateLeft n

/-- R67: bitwise XOR of two sequences of one length. -/
def xorBits {n : Nat} (a b : BitVec n) : BitVec n := a ^^^ b

/-- `b{1..32}` of a block (R45). -/
def leftHalf (b : Block64) : Half32 := b.extractLsb' 32 32

/-- `b{33..64}` of a block (R45). -/
def rightHalf (b : Block64) : Half32 := b.extractLsb' 0 32

/-- R68: each byte most significant bit first, concatenated in order. -/
def bytesToBits (bytes : List Byte) : Bits := bytes.flatMap toBits

/-- R69: one byte per eight bits; a trailing partial byte is dropped. -/
def bitsToBytes : Bits → List Byte
  | b1 :: b2 :: b3 :: b4 :: b5 :: b6 :: b7 :: b8 :: rest => ofBits 8 [b1, b2, b3, b4, b5, b6, b7, b8] :: bitsToBytes rest
  | _ => []

/-- 20_memory.md R32: the block of eight bytes, the byte at the lowest address in positions 1 to 8. -/
def bytesToBlock (b1 b2 b3 b4 b5 b6 b7 b8 : Byte) : Block64 := b1 ++ b2 ++ b3 ++ b4 ++ b5 ++ b6 ++ b7 ++ b8

/-- 20_memory.md R32: the eight bytes of a block, lowest address first. -/
def blockToBytes (b : Block64) : List Byte :=
  [b.extractLsb' 56 8, b.extractLsb' 48 8, b.extractLsb' 40 8, b.extractLsb' 32 8,
   b.extractLsb' 24 8, b.extractLsb' 16 8, b.extractLsb' 8 8, b.extractLsb' 0 8]

end Sys2Proof.Machine
end

