-- ==== Sys2Proof/Config.lean ====
section
/-! DEFINITION. What an implementation fixes (00_scope.md R6), and the free values. -/

namespace Sys2Proof

/-- The open parameter `MAXBYTES` of R6, "a multiple of 8 or unbounded": `none` is unbounded, `some k` is `8 * k`
bytes (DESIGN CHOICE of form, log 2). `NLANES` and `BUSMAP` are read by no rule (log 16). -/
structure Config where
  capacityBlocks : Option Nat
deriving DecidableEq, Repr

/-- FREE VALUE: what byte `addr` of `MI` holds after the `powerUp`-th reset, before anything is written there (10_state.md
R24, U7: "any value"; log 3). -/
opaque Config.powerOnMiByte (powerUp addr : Nat) : Byte

/-- FREE VALUE: the same for `MO` (log 3). -/
opaque Config.powerOnMoByte (powerUp addr : Nat) : Byte

/-- FREE VALUE: what the host reads at an address of `MI` at or beyond `MILEN` (U5: "any value"), a new one after every
write of a buffer (log 3). -/
opaque Config.staleMiByte (draw addr : Nat) : Byte

/-- FREE VALUE: the same for `MO` and `MOLEN` (log 3). -/
opaque Config.staleMoByte (draw addr : Nat) : Byte

end Sys2Proof
end

