-- ==== Sys2Proof/Machine/State.lean ====
section
/-! DEFINITION. The state of the block (10_state.md), the host actions and replies, the errors, faults and refusals,
and the state after reset (10_state.md R24). Register names are the spec's own. -/

namespace Sys2Proof.Machine

/-- A byte space (20_memory.md R30): the bytes written, addresses strictly rising. At an unlisted address nothing was
written since reset; what is read there is a free value (log 3). -/
abbrev Memory := List Host.Cell

/-- 10_state.md R14: `STAGE`, the DES invocation within a triple-DES block. -/
inductive Stage where
  | one | two | three
deriving DecidableEq, Repr

/-- 10_state.md R14: the sequencer `SEQ = (BIDX, STAGE, RND)`; `rnd = n` is round `n + 1`. -/
structure Seq where
  bidx : Nat
  stage : Stage
  rnd : Fin 16
deriving DecidableEq, Repr

/-- The pure functions that can meet an argument of the wrong length (60_exceptions.md R151). -/
inductive FunctionName where
  | xor | substitute | generateSubkeys | desEncryptBlock | desDecryptBlock
deriving DecidableEq, Repr

/-- The four errors of 60_exceptions.md R150, each with the value it records. -/
inductive Error where
  /-- `E_LEN`: raised by the untyped functions only (R151). -/
  | eLen (function : FunctionName) (length : Nat)
  /-- `E_CODEPOINT`: raised by the host adapter only (R152). -/
  | eCodepoint (cp : CodePoint)
  /-- `E_ILLOP`: raised by a `CMD` write with an illegal value (R153). -/
  | eIllop (word : BitVec 8)
  /-- `E_CAP`: raised by MENC and MDEC (R154). -/
  | eCap (milen : Nat)
deriving DecidableEq, Repr

/-- `WR reg, value` of 30_encoding.md R55: the host-written registers of 10_state.md R11. -/
inductive RegWrite where
  | K1 (v : Key64) | K2 (v : Key64) | K3 (v : Key64) | DI (v : Block64) | X (v : Sub48)
deriving DecidableEq, Repr

/-- What `RD` may name (30_encoding.md R55, 10_state.md R13): a register, a buffer, a `STATUS` field; and one byte of a
buffer (20_memory.md R30). `SK n` is `SK[n + 1]`. `CMD` has no read port (R19). -/
inductive ReadPort where
  | K1 | K2 | K3 | DI | X | DO | Y | SK (n : Fin 16) | SB
  | MI | MILEN | MO | MOLEN
  | STATUS | PADNEEDED | ALIGNED | SBVALID | ECODE
  | miByte (addr : Nat) | moByte (addr : Nat)
  | CMD
deriving DecidableEq, Repr

/-- The value a read returns, with its width. -/
inductive ReadValue where
  | bits64 (v : BitVec 64) | bits48 (v : BitVec 48) | bits32 (v : BitVec 32) | bits8 (v : BitVec 8)
  | bits4 (v : BitVec 4) | bit (v : Bool) | length (n : Nat) | bytes (bs : List Byte)
deriving DecidableEq, Repr

/-- One action of the host (30_encoding.md R55; log 1, log 6). -/
inductive HostAction where
  /-- `WR reg, value` -/
  | wr (w : RegWrite)
  /-- `WRM bytes`: `MI` and `MILEN` at once -/
  | wrm (bytes : List Byte)
  /-- one byte of `MI` (10_state.md R18: the host writes `MI`) -/
  | wrMi (addr : Nat) (b : Byte)
  /-- the length register (10_state.md R18: the host writes `MILEN`) -/
  | wrMilen (n : Nat)
  /-- `CMD`: the write that starts an operation (10_state.md R19) -/
  | cmd (c : BitVec 8)
  /-- `RD port` -/
  | rd (p : ReadPort)
  /-- reset (70_reset_and_hazards.md R170; log 12) -/
  | reset
deriving DecidableEq, Repr

/-- What the interface returned to the host for its last action (log 8). -/
inductive Reply where
  /-- no action since reset -/
  | none
  /-- a write, a reset or a command that succeeded -/
  | completed
  /-- the value of an `RD` -/
  | read (v : ReadValue)
  /-- the command ended in this error (60_exceptions.md R153: the value written is returned "with the error") -/
  | error (e : Error)
deriving DecidableEq, Repr

structure State where
  /-- key registers (R11, R12) -/
  K1 : Key64
  K2 : Key64
  K3 : Key64
  /-- data-in block (R11) -/
  DI : Block64
  /-- S-box input or round subkey (R11) -/
  X : Sub48
  /-- data-out block (R11) -/
  DO : Block64
  /-- result of SUBST and FFUNC (R11) -/
  Y : Half32
  /-- subkey store (R15); index `n` is `SK[n + 1]` -/
  SK : Vector Sub48 16
  /-- single-block comparison result (R11) -/
  SB : Block64
  /-- message-in buffer and its length (R18) -/
  MI : Memory
  MILEN : Nat
  /-- message-out buffer and its length (R18) -/
  MO : Memory
  MOLEN : Nat
  /-- status register (R20) -/
  STATUS : BitVec 8
  /-- the sequencer (R14), `none` when idle -/
  SEQ : Option Seq
  /-- the model's own: the open parameter `MAXBYTES`, written by no step (log 2) -/
  cfg : Config
  /-- the model's own: host actions not yet taken, oldest first (log 1) -/
  host : List HostAction
  /-- the model's own: what the last action returned (log 8) -/
  reply : Reply
  /-- the model's own: how many resets there were, for the free bytes of the buffers' contents at reset (log 3) -/
  powerUp : Nat
  /-- the model's own: how often a buffer was written, for the free bytes read beyond a length (log 3) -/
  draw : Nat
deriving DecidableEq, Repr

/-- What stops the machine. -/
inductive Fault where
  /-- Raised by a host write of an `MI` byte, or a host read of a buffer or buffer byte, at an address the space does
  not have (20_memory.md R30). No instruction raises it. Safe: the model stops where the spec gives no effect (log 7). -/
  | addressOutsideBuffer (addr : Nat)
deriving DecidableEq, Repr

/-- What has no meaning. -/
inductive Refusal where
  /-- Raised by `exec`'s arm of an instruction that has no meaning yet. Safe. No arm raises it. -/
  | notModelled (mnemonic : String)
  /-- Raised by a host read of `CMD`, which has no read port (10_state.md R19, U5). Safe (log 9). -/
  | commandRegisterRead
  /-- Raised by the adapter if `hexToBits` met a character that is no hexadecimal digit (U3). Safe, and not
  reachable through DECRYPT, which cleans its input (log 15). -/
  | nonHexDigit
  /-- Raised by the adapter if `bitsToHex` met a length that is no multiple of 4 (U4). Safe, and not reachable: every
  encoded value is a whole number of bytes (log 15). -/
  | partialNibble
deriving DecidableEq, Repr

/-- 10_state.md R24: every register zero, both lengths 0, `STATUS = 0x00`, the sequencer idle. The model's own fields
are unbounded capacity (log 2), nothing pending (log 1), no reply (log 8), both counters of free bytes 0 (log 3). -/
def State.reset : State where
  K1 := 0
  K2 := 0
  K3 := 0
  DI := 0
  X := 0
  DO := 0
  Y := 0
  SK := Vector.replicate 16 0
  SB := 0
  MI := []
  MILEN := 0
  MO := []
  MOLEN := 0
  STATUS := 0x00
  SEQ := none
  cfg := { capacityBlocks := none }
  host := []
  reply := .none
  powerUp := 0
  draw := 0

end Sys2Proof.Machine
end

