-- ==== Sys2Proof/Machine/Flags.lean ====
section
/-! DEFINITION. The fields of `STATUS` (10_state.md R20) and the diagnostic flags of the message operations
(45_tdes_ecb.md R126). There are no condition codes (R21). -/

namespace Sys2Proof.Machine

/-- R20: the layout of `STATUS`; bit 3 is always 0. -/
def statusWord (padNeeded aligned sbValid : Bool) (ecode : BitVec 4) : BitVec 8 :=
  ecode ++ (0 : BitVec 1) ++ BitVec.ofBool sbValid ++ BitVec.ofBool aligned ++ BitVec.ofBool padNeeded

def padNeededOf (status : BitVec 8) : Bool := status.getLsbD 0
def alignedOf (status : BitVec 8) : Bool := status.getLsbD 1
def sbValidOf (status : BitVec 8) : Bool := status.getLsbD 2
def ecodeOf (status : BitVec 8) : BitVec 4 := status.extractLsb' 4 4

/-- R126: a message of `n` bytes is block-aligned. -/
def messageAligned (n : Nat) : Bool := n % 8 == 0

/-- R126: the `STATUS` a message operation on `n` bytes leaves; `PADNEEDED` and `ALIGNED` are complements. -/
def messageStatus (n : Nat) (sbValid : Bool) : BitVec 8 :=
  statusWord (!messageAligned n) (messageAligned n) sbValid 0

/-- R150: the code of an error, the value of `STATUS.ECODE`. -/
def Error.code : Error → BitVec 4
  | .eLen _ _ => 1
  | .eCodepoint _ => 2
  | .eIllop _ => 3
  | .eCap _ => 4

end Sys2Proof.Machine
end

