-- ==== Sys2Proof/Machine/Ops.lean ====
section
/-! DEFINITION. The named operations over registers and buffers, completing a command, and taking an error. -/

namespace Sys2Proof.Machine

/-! ### Byte spaces (20_memory.md R30) -/

/-- The byte a space holds at an address, if one was written. -/
def Memory.read? : Memory → Nat → Option Byte
  | [], _ => none
  | (a, b) :: rest, addr => if a = addr then some b else Memory.read? rest addr

/-- Write one byte, keeping addresses strictly rising. -/
def Memory.write : Memory → Nat → Byte → Memory
  | [], addr, v => [(addr, v)]
  | (a, b) :: rest, addr, v =>
    if addr < a then (addr, v) :: (a, b) :: rest
    else if addr = a then (addr, v) :: rest
    else (a, b) :: Memory.write rest addr v

/-- 00_scope.md R8 `MemWrite`: write the given bytes in order from address `base`; every other byte stays. -/
def Memory.writeBytes (m : Memory) (base : Nat) : List Byte → Memory
  | [] => m
  | b :: rest => Memory.writeBytes (Memory.write m base b) (base + 1) rest

/-- The canonical form: addresses strictly rising. (An unlisted address reads as no byte, so no entry can equal it.) -/
def Memory.wf : Memory → Bool
  | [] => true
  | [_] => true
  | (a, _) :: (a', b') :: rest => decide (a < a') && Memory.wf ((a', b') :: rest)

/-- Whether `n` bytes fit in `MAXBYTES` (10_state.md R18, 60_exceptions.md R154). -/
def fitsCapacity (cfg : Config) (n : Nat) : Bool :=
  match cfg.capacityBlocks with
  | none => true
  | some k => decide (n ≤ 8 * k)

/-- Whether `n` bytes fit in `MO`, whose capacity is `MAXBYTES + 8` (10_state.md R18). -/
def fitsOutCapacity (cfg : Config) (n : Nat) : Bool :=
  match cfg.capacityBlocks with
  | none => true
  | some k => decide (n ≤ 8 * k + 8)

/-- Byte `addr` of `MI` as an operation reads it: the byte last written there, or a free value (U7, log 3). -/
def miByte (s : State) (addr : Nat) : Byte :=
  match Memory.read? s.MI addr with
  | some b => b
  | none => Config.powerOnMiByte s.powerUp addr

/-- Byte `addr` of `MO`, likewise. -/
def moByte (s : State) (addr : Nat) : Byte :=
  match Memory.read? s.MO addr with
  | some b => b
  | none => Config.powerOnMoByte s.powerUp addr

/-! ### Register and buffer writes, one per home -/

def State.writeK1 (s : State) (v : Key64) : State := { s with K1 := v }
def State.writeK2 (s : State) (v : Key64) : State := { s with K2 := v }
def State.writeK3 (s : State) (v : Key64) : State := { s with K3 := v }
def State.writeDI (s : State) (v : Block64) : State := { s with DI := v }
def State.writeX (s : State) (v : Sub48) : State := { s with X := v }
def State.writeDO (s : State) (v : Block64) : State := { s with DO := v }
def State.writeY (s : State) (v : Half32) : State := { s with Y := v }
def State.writeSK (s : State) (v : Vector Sub48 16) : State := { s with SK := v }
def State.writeSB (s : State) (v : Block64) : State := { s with SB := v }
def State.withReply (s : State) (r : Reply) : State := { s with reply := r }
def State.withHost (s : State) (h : List HostAction) : State := { s with host := h }

/-- One byte of `MI` (20_memory.md R30). -/
def State.writeMiByte (s : State) (addr : Nat) (b : Byte) : State :=
  { s with MI := Memory.write s.MI addr b, draw := s.draw + 1 }

/-- The length register of `MI` (10_state.md R18). -/
def State.writeMILEN (s : State) (n : Nat) : State := { s with MILEN := n, draw := s.draw + 1 }

/-- The bytes of a `WRM` that have an address: those past `MAXBYTES` have none and are not held (log 4). -/
def heldBytes (cfg : Config) (bytes : List Byte) : List Byte :=
  match cfg.capacityBlocks with
  | none => bytes
  | some k => bytes.take (8 * k)

/-- `WRM` (30_encoding.md R55): "the host writes `MI` with the bytes given, in order from address 0, and `MILEN` with
their count". -/
def State.writeMessageIn (s : State) (bytes : List Byte) : State :=
  { s with MI := Memory.writeBytes s.MI 0 (heldBytes s.cfg bytes), MILEN := bytes.length, draw := s.draw + 1 }

/-- A message operation's output (45_tdes_ecb.md R127, R128): the bytes given go to `MO` from address 0, and `MOLEN` is
their count. -/
def State.writeMessageOut (s : State) (bytes : List Byte) : State :=
  { s with MO := Memory.writeBytes s.MO 0 bytes, MOLEN := bytes.length, draw := s.draw + 1 }

/-! ### The end of a command -/

/-- A command that succeeds rewrites `STATUS` whole (10_state.md R20) and returns to the host. -/
def complete (s : State) (status : BitVec 8) : State := { s with STATUS := status, reply := .completed }

/-- TAKING AN ERROR (60_exceptions.md R156, the block's "trap entry"): `STATUS <- ECODE * 16` and nothing else; no
vector, no saved register, no mode. The recorded value is returned to the host with the error (R153, log 8).
There is no return operation and nothing to restore (R157): the next command rewrites `STATUS`. -/
def raise (s : State) (e : Error) : State := { s with STATUS := statusWord false false false e.code, reply := .error e }

/-- 70_reset_and_hazards.md R170: reset puts every register at the value of 10_state.md R24. The capacity is the
block's own and stays, the host's later actions stay, and the buffers' contents become new free values (U7; log 12). -/
def resetNow (s : State) : State :=
  { State.reset with
    cfg := s.cfg, host := s.host, reply := .completed, powerUp := s.powerUp + 1, draw := s.draw + 1 }

end Sys2Proof.Machine
end

