-- ==== Sys2Proof/Machine/Operands.lean ====
section
/-! DEFINITION. Where each operation finds its operands (30_encoding.md R54): "This table is the whole of operand
decoding". -/

namespace Sys2Proof.Machine

/-- R54 SUBST: `X{1..48}`. -/
def substInput (s : State) : Sub48 := s.X

/-- R54 FFUNC, ROUND: the subkey is `X{1..48}`. -/
def subkeyOperand (s : State) : Sub48 := s.X

/-- R54 FFUNC: the half-block is `DI{33..64}`; `DI{1..32}` is ignored. -/
def halfBlockOperand (s : State) : Half32 := rightHalf s.DI

/-- R54 ROUND: `left32 = DI{1..32}`. -/
def leftOperand (s : State) : Half32 := leftHalf s.DI

/-- R54 ROUND: `right32 = DI{33..64}`. -/
def rightOperand (s : State) : Half32 := rightHalf s.DI

/-- R54 KSCHED, DESENC, DESDEC: the key is `K1{1..64}`. -/
def keyOperand (s : State) : Key64 := s.K1

/-- R54 DESENC, DESDEC, TENC, TDEC: the block is `DI{1..64}`. -/
def blockOperand (s : State) : Block64 := s.DI

/-- R54 MENC, MDEC: the message bytes `MI[0..MILEN-1]`. -/
def messageOperand (s : State) : List Byte := (List.range s.MILEN).map (miByte s)

/-- `MO[0..MOLEN-1]`, as the host reads it (30_encoding.md R55). -/
def messageOut (s : State) : List Byte := (List.range s.MOLEN).map (moByte s)

end Sys2Proof.Machine
end

