-- ==== Sys2Proof/Machine/Sbox.lean ====
section
/-! DEFINITION. S-box substitution and SUBST (41_sbox.md). -/

namespace Sys2Proof.Machine

/-- R82: `row = 2*c{1} + c{6}`. -/
def sboxRow (c : Chunk6) : BitVec 2 := c.extractLsb' 5 1 ++ c.extractLsb' 0 1

/-- R82: `col = 8*c{2} + 4*c{3} + 2*c{4} + c{5}`. -/
def sboxCol (c : Chunk6) : BitVec 4 := c.extractLsb' 1 4

/-- R83: the entry of a box at the row and column of a chunk, as 4 bits. -/
def sboxLookup (S : SBox) (c : Chunk6) : Nibble4 := (S.get (sboxRow c).toFin).get (sboxCol c).toFin

/-- R81: chunk `i + 1`, the six bits `x{6i+1..6i+6}`. -/
def chunk (x : Sub48) (i : Fin 8) : Chunk6 := x.extractLsb' (42 - 6 * i.val) 6

/-- R81, R83: the output nibble of box `i + 1`. -/
def sboxNibble (x : Sub48) (i : Fin 8) : Nibble4 := sboxLookup (sboxes.get i) (chunk x i)

/-- R80: `substitute(bits48) -> bits32`. -/
def substitute (x : Sub48) : Half32 :=
  sboxNibble x 0 ++ sboxNibble x 1 ++ sboxNibble x 2 ++ sboxNibble x 3
    ++ sboxNibble x 4 ++ sboxNibble x 5 ++ sboxNibble x 6 ++ sboxNibble x 7

/-- SUBST (R80): `Y <- substitute(X)`, `STATUS <- 0x00`. -/
def execSubst (s : State) : Host.Outcome State Fault Refusal :=
  .next (complete (s.writeY (substitute (substInput s))) 0x00)

end Sys2Proof.Machine
end

