-- ==== Sys2Proof/Machine/Feistel.lean ====
section
/-! DEFINITION. The round function and the round step, FFUNC and ROUND (43_feistel.md). -/

namespace Sys2Proof.Machine

/-- R100: expand by E, XOR with the subkey, substitute, permute by P. -/
def roundFunction (r : Half32) (k : Sub48) : Half32 := permute (substitute (xorBits (permute r tableE) k)) tableP

/-- R103: `newLeft = right; newRight = left XOR roundFunction(right, subkey)`. -/
def desRound (l r : Half32) (k : Sub48) : Half32 × Half32 := (r, xorBits l (roundFunction r k))

/-- FFUNC (R100): `Y <- roundFunction(DI{33..64}, X)`, `STATUS <- 0x00`. -/
def execFfunc (s : State) : Host.Outcome State Fault Refusal :=
  .next (complete (s.writeY (roundFunction (halfBlockOperand s) (subkeyOperand s))) 0x00)

/-- ROUND (R103): `DO <- newLeft ‖ newRight`, `STATUS <- 0x00`. -/
def execRound (s : State) : Host.Outcome State Fault Refusal :=
  let halves := desRound (leftOperand s) (rightOperand s) (subkeyOperand s)
  .next (complete (s.writeDO (halves.1 ++ halves.2)) 0x00)

end Sys2Proof.Machine
end

