-- ==== Sys2Proof/Machine/KeySchedule.lean ====
section
/-! DEFINITION. The key schedule and KSCHED (42_key_schedule.md). -/

namespace Sys2Proof.Machine

/-- R90, the loop: rotate both halves by the round's amount, accumulating, and compress `C ‖ D` by PC2. -/
def subkeyRounds : List (Fin 28) → KeyHalf28 → KeyHalf28 → List Sub48
  | [], _, _ => []
  | n :: rest, C, D => permute (rotl C n ++ rotl D n) tablePC2 :: subkeyRounds rest (rotl C n) (rotl D n)

/-- R92: `C = cd{1..28}`. -/
def initialC (key : Key64) : KeyHalf28 := (permute key tablePC1).extractLsb' 28 28

/-- R92: `D = cd{29..56}`. -/
def initialD (key : Key64) : KeyHalf28 := (permute key tablePC1).extractLsb' 0 28

/-- The sixteen subkeys in round order 1 to 16 (R95). -/
def subkeyList (key : Key64) : List Sub48 := subkeyRounds shiftSchedule (initialC key) (initialD key)

theorem subkeyRounds_length (sh : List (Fin 28)) : ∀ C D, (subkeyRounds sh C D).length = sh.length := by
  induction sh with
  | nil => intros; rfl
  | cons n rest ih => intro C D; simp [subkeyRounds, ih]

/-- R90: `generateSubkeys(key64) -> [subkey48 x 16]`; index `n` is the subkey of round `n + 1`. -/
def generateSubkeys (key : Key64) : Vector Sub48 16 :=
  ⟨(subkeyList key).toArray, by rw [List.size_toArray, subkeyList, subkeyRounds_length]; rfl⟩

/-- KSCHED (R90): `SK[1..16] <- generateSubkeys(K1)`, `STATUS <- 0x00`. -/
def execKsched (s : State) : Host.Outcome State Fault Refusal :=
  .next (complete (s.writeSK (generateSubkeys (keyOperand s))) 0x00)

end Sys2Proof.Machine
end

