-- ==== Sys2Proof/Machine/DesBlock.lean ====
section
/-! DEFINITION. The single-DES block cipher, DESENC and DESDEC (44_des_block.md). -/

namespace Sys2Proof.Machine

/-- The order in which the sixteen subkeys are consumed (R110, R111). -/
inductive SubkeyOrder where
  | forward | reverse
deriving DecidableEq, Repr

/-- R110, R111: the subkeys in the order the rounds use them; they are always generated in the order 1 to 16. -/
def subkeysInOrder (key : Key64) : SubkeyOrder → List Sub48
  | .forward => (generateSubkeys key).toList
  | .reverse => (generateSubkeys key).toList.reverse

/-- R110, the loop: one `desRound` per subkey. -/
def desRounds : List Sub48 → Half32 × Half32 → Half32 × Half32
  | [], lr => lr
  | k :: ks, (l, r) => desRounds ks (desRound l r k)

/-- R110, R114: IP, sixteen rounds, the halves exchanged (`R ‖ L`), FP. -/
def desBlock (b : Block64) (key : Key64) (order : SubkeyOrder) : Block64 :=
  let t := permute b tableIP
  let lr := desRounds (subkeysInOrder key order) (leftHalf t, rightHalf t)
  permute (lr.2 ++ lr.1) tableFP

def desEncryptBlock (b : Block64) (key : Key64) : Block64 := desBlock b key .forward

def desDecryptBlock (b : Block64) (key : Key64) : Block64 := desBlock b key .reverse

/-- DESENC (R110): `DO <- desEncryptBlock(DI, K1)`, `STATUS <- 0x00`. -/
def execDesenc (s : State) : Host.Outcome State Fault Refusal :=
  .next (complete (s.writeDO (desEncryptBlock (blockOperand s) (keyOperand s))) 0x00)

/-- DESDEC (R111): `DO <- desDecryptBlock(DI, K1)`, `STATUS <- 0x00`. -/
def execDesdec (s : State) : Host.Outcome State Fault Refusal :=
  .next (complete (s.writeDO (desDecryptBlock (blockOperand s) (keyOperand s))) 0x00)

end Sys2Proof.Machine
end

