-- ==== Sys2Proof/Machine/TripleDes.lean ====
section
/-! DEFINITION. The triple-DES composition, TENC and TDEC (45_tdes_ecb.md section 1). -/

namespace Sys2Proof.Machine

/-- R120: `desEncrypt(desDecrypt(desEncrypt(block, K1), K2), K3)`. -/
def tripleEncryptBlock (b : Block64) (k1 k2 k3 : Key64) : Block64 :=
  desEncryptBlock (desDecryptBlock (desEncryptBlock b k1) k2) k3

/-- R121: `desDecrypt(desEncrypt(desDecrypt(block, K3), K2), K1)`. -/
def tripleDecryptBlock (b : Block64) (k1 k2 k3 : Key64) : Block64 :=
  desDecryptBlock (desEncryptBlock (desDecryptBlock b k3) k2) k1

/-- TENC (R120): `DO <- tripleEncryptBlock(DI, K1, K2, K3)`, `STATUS <- 0x00`. -/
def execTenc (s : State) : Host.Outcome State Fault Refusal :=
  .next (complete (s.writeDO (tripleEncryptBlock (blockOperand s) s.K1 s.K2 s.K3)) 0x00)

/-- TDEC (R121): `DO <- tripleDecryptBlock(DI, K1, K2, K3)`, `STATUS <- 0x00`. -/
def execTdec (s : State) : Host.Outcome State Fault Refusal :=
  .next (complete (s.writeDO (tripleDecryptBlock (blockOperand s) s.K1 s.K2 s.K3)) 0x00)

end Sys2Proof.Machine
end

