-- ==== Sys2Proof/Machine/Message.lean ====
section
/-! DEFINITION. The ECB message driver, MENC and MDEC (45_tdes_ecb.md sections 2 to 4). -/

namespace Sys2Proof.Machine

/-- R124, R125: append PKCS#7 padding when requested, else null-fill a short last block. -/
def prepare (msg : List Byte) (pad : Bool) : List Byte :=
  let r := msg.length % 8
  if pad then msg ++ List.replicate (8 - r) (BitVec.ofNat 8 (8 - r))
  else if r ≠ 0 then msg ++ List.replicate (8 - r) 0
  else msg

/-- R123: the consecutive 8-byte blocks of prepared data, block i from bytes 8i to 8i+7. -/
def blocksOf : List Byte → List Block64
  | b1 :: b2 :: b3 :: b4 :: b5 :: b6 :: b7 :: b8 :: rest => bytesToBlock b1 b2 b3 b4 b5 b6 b7 b8 :: blocksOf rest
  | _ => []

/-- The bytes of a sequence of blocks, in block order (20_memory.md R33, R36 (b)). -/
def bytesOf (blocks : List Block64) : List Byte := blocks.flatMap blockToBytes

/-- R127, R131: every block encrypted independently, outputs in block order. -/
def encryptBlocks (data : List Byte) (k1 k2 k3 : Key64) : List Byte :=
  bytesOf ((blocksOf data).map fun b => tripleEncryptBlock b k1 k2 k3)

/-- R128, R131: every block decrypted independently, outputs in block order. -/
def decryptBlocks (data : List Byte) (k1 k2 k3 : Key64) : List Byte :=
  bytesOf ((blocksOf data).map fun b => tripleDecryptBlock b k1 k2 k3)

/-- R129: strip a valid PKCS#7 padding from the end, and leave anything else unmodified. -/
def unpad (out : List Byte) : List Byte :=
  match out.getLast? with
  | none => out
  | some last =>
    let padLen := last.toNat
    if 1 ≤ padLen ∧ padLen ≤ 8 ∧ padLen ≤ out.length ∧ out.drop (out.length - padLen) = List.replicate padLen last then
      out.take (out.length - padLen)
    else out

/-- R130: MENC also writes the comparison result when padding was requested and the message is exactly one block. -/
def writesComparison (p : Bool) (n : Nat) : Bool := p && n == 8

/-- R130: `SB <- tripleEncryptBlock(bytesToBits(MI[0..7]), K1, K2, K3)`; any other MENC leaves `SB` as it is. -/
def comparisonResult (p : Bool) (s : State) : Block64 :=
  if writesComparison p s.MILEN then
    tripleEncryptBlock
      (bytesToBlock (miByte s 0) (miByte s 1) (miByte s 2) (miByte s 3) (miByte s 4) (miByte s 5) (miByte s 6) (miByte s 7))
      s.K1 s.K2 s.K3
  else s.SB

/-- MENC and MENC.P (R127): `E_CAP` when `MILEN > MAXBYTES`; else `MO`, `MOLEN`, `SB` in the case of R130, `STATUS`. -/
def execMenc (p : Bool) (s : State) : Host.Outcome State Fault Refusal :=
  if fitsCapacity s.cfg s.MILEN then
    let out := encryptBlocks (prepare (messageOperand s) p) s.K1 s.K2 s.K3
    .next (complete ((s.writeMessageOut out).writeSB (comparisonResult p s))
      (messageStatus s.MILEN (writesComparison p s.MILEN)))
  else .next (raise s (.eCap s.MILEN))

/-- MDEC and MDEC.P (R128): `E_CAP` when `MILEN > MAXBYTES`; else null-fill, decrypt, unpad when `P = 1`. -/
def execMdec (p : Bool) (s : State) : Host.Outcome State Fault Refusal :=
  if fitsCapacity s.cfg s.MILEN then
    let out := decryptBlocks (prepare (messageOperand s) false) s.K1 s.K2 s.K3
    .next (complete (s.writeMessageOut (if p then unpad out else out)) (messageStatus s.MILEN false))
  else .next (raise s (.eCap s.MILEN))

end Sys2Proof.Machine
end

