-- ==== Sys2Proof/Machine/Dispatch.lean ====
section
/-! DEFINITION. One arm per operation, each a direct call of its meaning. -/

namespace Sys2Proof.Machine

def exec (i : Instr) (s : State) : Host.Outcome State Fault Refusal :=
  match i with
  | .subst => Sys2Proof.Machine.execSubst s
  | .ksched => Sys2Proof.Machine.execKsched s
  | .ffunc => Sys2Proof.Machine.execFfunc s
  | .round => Sys2Proof.Machine.execRound s
  | .desenc => Sys2Proof.Machine.execDesenc s
  | .desdec => Sys2Proof.Machine.execDesdec s
  | .tenc => Sys2Proof.Machine.execTenc s
  | .tdec => Sys2Proof.Machine.execTdec s
  | .menc p => Sys2Proof.Machine.execMenc p s
  | .mdec p => Sys2Proof.Machine.execMdec p s

end Sys2Proof.Machine
end

