-- ==== Sys2Proof/Machine/HostPort.lean ====
section
/-! DEFINITION. The host's side of the register interface (30_encoding.md R55, 10_state.md R13, R18, R19): one action is
one step. A command is fetched from the host's `CMD` write, decoded and run to completion (10_state.md R10). -/

namespace Sys2Proof.Machine

/-- `WR reg, value` (30_encoding.md R55). -/
def writeRegister (w : RegWrite) (s : State) : State :=
  match w with
  | .K1 v => s.writeK1 v
  | .K2 v => s.writeK2 v
  | .K3 v => s.writeK3 v
  | .DI v => s.writeDI v
  | .X v => s.writeX v

/-- A host read of byte `addr` of `MI` (20_memory.md R30): a byte of the message, or, at or beyond the length, "any
value" (U5); an address the buffer does not have is a fault (log 7). -/
def hostReadMiByte (s : State) (addr : Nat) : Host.Outcome Byte Fault Refusal :=
  if fitsCapacity s.cfg (addr + 1) then
    .next (if addr < s.MILEN then miByte s addr else Config.staleMiByte s.draw addr)
  else .fault (.addressOutsideBuffer addr)

/-- A host read of byte `addr` of `MO`, likewise. -/
def hostReadMoByte (s : State) (addr : Nat) : Host.Outcome Byte Fault Refusal :=
  if fitsOutCapacity s.cfg (addr + 1) then
    .next (if addr < s.MOLEN then moByte s addr else Config.staleMoByte s.draw addr)
  else .fault (.addressOutsideBuffer addr)

/-- A host read of one byte, as the value it returns. -/
def byteRead (o : Host.Outcome Byte Fault Refusal) : Host.Outcome ReadValue Fault Refusal :=
  match o with
  | .next b => .next (.bits8 b)
  | .fault f => .fault f
  | .refused r => .refused r

/-- What an `RD` returns (30_encoding.md R55). `SB` with `SBVALID = 0` is the last value written or the reset value
(U5). A whole buffer is its bytes up to the length; a length beyond the buffer is a fault (log 7). -/
def readPort (p : ReadPort) (s : State) : Host.Outcome ReadValue Fault Refusal :=
  match p with
  | .K1 => .next (.bits64 s.K1)
  | .K2 => .next (.bits64 s.K2)
  | .K3 => .next (.bits64 s.K3)
  | .DI => .next (.bits64 s.DI)
  | .X => .next (.bits48 s.X)
  | .DO => .next (.bits64 s.DO)
  | .Y => .next (.bits32 s.Y)
  | .SK n => .next (.bits48 (s.SK.get n))
  | .SB => .next (.bits64 s.SB)
  | .MI => if fitsCapacity s.cfg s.MILEN then .next (.bytes (messageOperand s)) else .fault (.addressOutsideBuffer (s.MILEN - 1))
  | .MILEN => .next (.length s.MILEN)
  | .MO => if fitsOutCapacity s.cfg s.MOLEN then .next (.bytes (messageOut s)) else .fault (.addressOutsideBuffer (s.MOLEN - 1))
  | .MOLEN => .next (.length s.MOLEN)
  | .STATUS => .next (.bits8 s.STATUS)
  | .PADNEEDED => .next (.bit (padNeededOf s.STATUS))
  | .ALIGNED => .next (.bit (alignedOf s.STATUS))
  | .SBVALID => .next (.bit (sbValidOf s.STATUS))
  | .ECODE => .next (.bits4 (ecodeOf s.STATUS))
  | .miByte addr => byteRead (hostReadMiByte s addr)
  | .moByte addr => byteRead (hostReadMoByte s addr)
  | .CMD => .refused .commandRegisterRead

/-- A `CMD` write (10_state.md R19): a legal word runs its operation, any other takes `E_ILLOP` (30_encoding.md R53,
60_exceptions.md R153); decoding comes first (R158). -/
def runCommand (c : BitVec 8) (s : State) : Host.Outcome State Fault Refusal :=
  match decode c with
  | .ok i => exec i s
  | .error _ => .next (raise s (.eIllop c))

/-- One host action (30_encoding.md R55). -/
def serve (a : HostAction) (s : State) : Host.Outcome State Fault Refusal :=
  match a with
  | .wr w => .next ((writeRegister w s).withReply .completed)
  | .wrm bytes => .next ((s.writeMessageIn bytes).withReply .completed)
  | .wrMi addr b =>
    if fitsCapacity s.cfg (addr + 1) then .next ((s.writeMiByte addr b).withReply .completed)
    else .fault (.addressOutsideBuffer addr)
  | .wrMilen n => .next ((s.writeMILEN n).withReply .completed)
  | .cmd c => runCommand c s
  | .rd p =>
    match readPort p s with
    | .next v => .next (s.withReply (.read v))
    | .fault f => .fault f
    | .refused r => .refused r
  | .reset => .next (resetNow s)

/-- The next pending host action, taken off the queue; with none pending the block is idle and "holds its registers"
(60_exceptions.md R161). -/
def serveNext (s : State) : Host.Outcome State Fault Refusal :=
  match s.host with
  | [] => .next s
  | a :: rest => serve a (s.withHost rest)

/-- A list of host actions served one after another. -/
def serveAll : List HostAction → State → Host.Outcome State Fault Refusal
  | [], s => .next s
  | a :: rest, s =>
    match serve a s with
    | .next t => serveAll rest t
    | .fault f => .fault f
    | .refused r => .refused r

/-- Put a command word where the next step takes it: first in the host's queue. -/
def pushCommand (c : BitVec 8) (s : State) : State := s.withHost (.cmd c :: s.host)

end Sys2Proof.Machine
end

