-- ==== Sys2Proof/Machine/Step.lean ====
section
/-! DEFINITION. One step: the next pending host action (10_state.md R10: a command runs to completion as one atomic
step). The block fetches no instructions (10_state.md R14); a program is the sequence of the host's actions (log 1). -/

namespace Sys2Proof.Machine

def step (s : State) : Host.Outcome State Fault Refusal := serveNext s

/-- `s` with the command word as the host's next action, so that the very next step runs it (log 1). -/
def State.withFetchWord (s : State) (nbits w : Nat) : State := pushCommand (tableWordByte nbits w) s

end Sys2Proof.Machine
end

