-- ==== Sys2Proof/Machine/Adapter.lean ====
section
/-! DEFINITION. The host adapter (45_tdes_ecb.md section 5): the text and hexadecimal codecs of 40_bitvector.md R70 to
R73, key normalisation, hex cleaning, the sanitising filter, and the pseudo-operations ENCRYPT and DECRYPT
(30_encoding.md R56) as host actions around one engine command. A text is its code points (log 14). -/

namespace Sys2Proof.Machine

/-! ### Codecs -/

/-- R70: one byte per character; the first code point above 255 is the error. -/
def textToBytes : Text → Except Error (List Byte)
  | [] => .ok []
  | c :: rest =>
    if c ≤ 255 then
      match textToBytes rest with
      | .ok bytes => .ok (BitVec.ofNat 8 c :: bytes)
      | .error e => .error e
    else .error (.eCodepoint c)

/-- R70: `textToBits(text) -> bits`. -/
def textToBits (t : Text) : Except Error Bits := (textToBytes t).map bytesToBits

/-- Each byte as the character of that code point (R71). -/
def bytesToText (bytes : List Byte) : Text := bytes.map BitVec.toNat

/-- R71: `bitsToText(bits) -> text`; a trailing partial byte is dropped. -/
def bitsToText (b : Bits) : Text := bytesToText (bitsToBytes b)

/-- 30_encoding.md R50: the value of a hexadecimal digit, `0`-`9`, `A`-`F`, `a`-`f`. -/
def hexValue (c : CodePoint) : Option Nat :=
  if 48 ≤ c ∧ c ≤ 57 then some (c - 48)
  else if 65 ≤ c ∧ c ≤ 70 then some (c - 55)
  else if 97 ≤ c ∧ c ≤ 102 then some (c - 87)
  else none

/-- 30_encoding.md R50: the digit of a value 0 to 15, lowercase. -/
def hexDigit (v : Nat) : CodePoint := if v < 10 then 48 + v else 87 + v

/-- R72: four bits per digit; no meaning where a character is no digit (U3, log 15). -/
def hexToBits : Text → Option Bits
  | [] => some []
  | c :: rest =>
    match hexValue c, hexToBits rest with
    | some v, some bits => some (toBits (BitVec.ofNat 4 v) ++ bits)
    | _, _ => none

/-- R73: one digit per four bits; no meaning where a partial nibble is left (U4, log 15). -/
def bitsToHex : Bits → Option Text
  | [] => some []
  | b1 :: b2 :: b3 :: b4 :: rest =>
    match bitsToHex rest with
    | some digits => some (hexDigit (val [b1, b2, b3, b4]) :: digits)
    | none => none
  | _ => none

/-- R132: the first 8 characters; spaces on the right up to 8. -/
def normalizeKey (s : Text) : Text := s.take 8 ++ List.replicate (8 - s.length) 32

/-- R132: the 64-bit key of a key string. -/
def keyFromText (s : Text) : Except Error Key64 := (textToBits (normalizeKey s)).map (ofBits 64)

/-- R133: exactly the hexadecimal digits, in order, and a `0` at the end if their number is odd. -/
def cleanHex (s : Text) : Text :=
  let kept := s.filter fun c => (hexValue c).isSome
  if kept.length % 2 = 1 then kept ++ [48] else kept

/-- R134: the bytes the filter keeps. -/
def printable (b : Byte) : Bool := 32 ≤ b.toNat || b.toNat == 9 || b.toNat == 10 || b.toNat == 13

/-- R134: the sanitising filter of the hex decryption path. -/
def sanitize (bytes : List Byte) : List Byte := bytes.filter printable

/-! ### The pseudo-operations -/

/-- R135: the record `encrypt` returns. -/
structure EncryptResult where
  cipherText : Text
  cipherHex : Text
  paddingWasNeeded : Bool
  wasBlockAligned : Bool
  cipherHexSingleBlockUnpadded : Option Text
deriving DecidableEq, Repr

/-- The three keys of a pseudo-operation; `key1`, `key2`, `key3` are examined in that order (60_exceptions.md R152). -/
def adapterKeys (key1 key2 key3 : Text) : Except Error (Key64 × Key64 × Key64) := do
  let k1 ← keyFromText key1
  let k2 ← keyFromText key2
  let k3 ← keyFromText key3
  return (k1, k2, k3)

/-- The host's actions of a pseudo-operation: keys, message, one command (30_encoding.md R56). -/
def adapterScript (keys : Key64 × Key64 × Key64) (message : List Byte) (i : Instr) : List HostAction :=
  [.wr (.K1 keys.1), .wr (.K2 keys.2.1), .wr (.K3 keys.2.2), .wrm message, .cmd (encode i)]

/-- R135: what ENCRYPT reads back after its command. -/
def encryptResult (t : State) : Host.Outcome (State × Except Error EncryptResult) Fault Refusal :=
  match bitsToHex (bytesToBits (messageOut t)), bitsToHex (toBits t.SB) with
  | some hex, some sbHex =>
    .next (t, .ok
      { cipherText := bitsToText (bytesToBits (messageOut t))
        cipherHex := hex
        paddingWasNeeded := padNeededOf t.STATUS
        wasBlockAligned := alignedOf t.STATUS
        cipherHexSingleBlockUnpadded := if sbValidOf t.STATUS then some sbHex else none })
  | _, _ => .refused .partialNibble

/-- R136: what DECRYPT reads back after its command. -/
def decryptResult (t : State) : Text := bitsToText (bytesToBits (sanitize (messageOut t)))

/-- The end of a pseudo-operation: an error of its command is its result (60_exceptions.md R150; log 13), else `collect`. -/
def afterCommand {α : Type} (o : Host.Outcome State Fault Refusal)
    (collect : State → Host.Outcome (State × Except Error α) Fault Refusal) :
    Host.Outcome (State × Except Error α) Fault Refusal :=
  match o with
  | .next t =>
    match t.reply with
    | .error e => .next (t, .error e)
    | _ => collect t
  | .fault f => .fault f
  | .refused r => .refused r

/-- ENCRYPT (R135). `E_CODEPOINT` comes before any command, with the engine as it was (60_exceptions.md R152, log 13). -/
def encrypt (plaintext key1 key2 key3 : Text) (usePadding : Bool) (s : State) :
    Host.Outcome (State × Except Error EncryptResult) Fault Refusal :=
  match adapterKeys key1 key2 key3 with
  | .error e => .next (s, .error e)
  | .ok keys =>
    match textToBits plaintext with
    | .error e => .next (s, .error e)
    | .ok bits => afterCommand (serveAll (adapterScript keys (bitsToBytes bits) (.menc usePadding)) s) encryptResult

/-- DECRYPT (R136). Malformed hex is never an error (60_exceptions.md R155). -/
def decrypt (cipherHex key1 key2 key3 : Text) (usePadding : Bool) (s : State) :
    Host.Outcome (State × Except Error Text) Fault Refusal :=
  match adapterKeys key1 key2 key3 with
  | .error e => .next (s, .error e)
  | .ok keys =>
    match hexToBits (cleanHex cipherHex) with
    | none => .refused .nonHexDigit
    | some bits =>
      afterCommand (serveAll (adapterScript keys (bitsToBytes bits) (.mdec usePadding)) s)
        fun t => .next (t, .ok (decryptResult t))

end Sys2Proof.Machine
end

