-- ==== Sys2Proof/Machine/Sequencer.lean ====
section
/-! DEFINITION. The sequencer of 10_state.md R14 as a machine of single rounds, with the working values of R17: `RND`
runs 1 to 16 within a DES invocation, `STAGE` 1 to 3 within a block, `BIDX` 0, 1, ... within a message. It is inside one
atomic command and never observable; the operations' meanings are the functions, and this machine is the order in which
an engine computes them (log 10). -/

namespace Sys2Proof.Machine

/-- Encrypt-decrypt-encrypt or decrypt-encrypt-decrypt (45_tdes_ecb.md R120, R121). -/
inductive Direction where
  | ede | ded
deriving DecidableEq, Repr

/-- The key of a stage (R120: K1, K2, K3; R121: K3, K2, K1). -/
def stageKey (d : Direction) (st : Stage) (k1 k2 k3 : Key64) : Key64 :=
  match d, st with
  | .ede, .one => k1
  | .ede, .two => k2
  | .ede, .three => k3
  | .ded, .one => k3
  | .ded, .two => k2
  | .ded, .three => k1

/-- The subkey order of a stage (R120: encrypt, decrypt, encrypt; R121: decrypt, encrypt, decrypt). -/
def stageOrder (d : Direction) (st : Stage) : SubkeyOrder :=
  match d, st with
  | .ede, .one => .forward
  | .ede, .two => .reverse
  | .ede, .three => .forward
  | .ded, .one => .reverse
  | .ded, .two => .forward
  | .ded, .three => .reverse

/-- 44_des_block.md R110: round `j` uses subkey `j` forward and `17 - j` in reverse. -/
def subkeyIndex (o : SubkeyOrder) (rnd : Fin 16) : Fin 16 :=
  match o with
  | .forward => rnd
  | .reverse => rnd.rev

/-- R14: the stage after a stage. -/
def Stage.succ? : Stage → Option Stage
  | .one => some .two
  | .two => some .three
  | .three => none

/-- The sequencer with the working values of R17. -/
structure Engine where
  seq : Option Seq
  /-- the sixteen subkeys of the current DES invocation -/
  subkeys : Vector Sub48 16
  L : Half32
  R : Half32
  /-- the 64-bit value passed between stages -/
  value : Block64
  /-- input blocks not yet begun -/
  todo : List Block64
  /-- finished output blocks, in block order -/
  out : List Block64
deriving DecidableEq, Repr

/-- The engine at the first round of the first block, or idle when there is none. -/
def Engine.start (blocks : List Block64) : Engine :=
  match blocks with
  | [] => { seq := none, subkeys := Vector.replicate 16 0, L := 0, R := 0, value := 0, todo := [], out := [] }
  | b :: rest =>
    { seq := some ⟨0, .one, 0⟩, subkeys := Vector.replicate 16 0, L := 0, R := 0, value := b, todo := rest, out := [] }

/-- Before round 1 of an invocation: its sixteen subkeys, and the halves of the value after IP (44_des_block.md R110). -/
def Engine.load (d : Direction) (k1 k2 k3 : Key64) (q : Seq) (e : Engine) : Engine :=
  if q.rnd = 0 then
    { e with
      subkeys := generateSubkeys (stageKey d q.stage k1 k2 k3)
      L := leftHalf (permute e.value tableIP)
      R := rightHalf (permute e.value tableIP) }
  else e

/-- After round 16: the exchange and FP (44_des_block.md R114), then the next stage, or the block is finished and the
next block begins, or the sequencer is idle. -/
def Engine.finish (q : Seq) (e : Engine) : Engine :=
  let v := permute (e.R ++ e.L) tableFP
  match q.stage.succ?, e.todo with
  | some st, _ => { e with seq := some ⟨q.bidx, st, 0⟩, value := v }
  | none, b :: rest => { e with seq := some ⟨q.bidx + 1, .one, 0⟩, value := b, todo := rest, out := e.out ++ [v] }
  | none, [] => { e with seq := none, value := v, out := e.out ++ [v] }

/-- One round of the sequencer (R14). -/
def Engine.tick (d : Direction) (k1 k2 k3 : Key64) (e : Engine) : Engine :=
  match e.seq with
  | none => e
  | some q =>
    let e1 := e.load d k1 k2 k3 q
    let lr := desRound e1.L e1.R (e1.subkeys.get (subkeyIndex (stageOrder d q.stage) q.rnd))
    let e2 := { e1 with L := lr.1, R := lr.2 }
    if h : q.rnd.val + 1 < 16 then { e2 with seq := some ⟨q.bidx, q.stage, ⟨q.rnd.val + 1, h⟩⟩ } else e2.finish q

/-- `n` rounds. -/
def Engine.run (d : Direction) (k1 k2 k3 : Key64) : Nat → Engine → Engine
  | 0, e => e
  | n + 1, e => Engine.run d k1 k2 k3 n (e.tick d k1 k2 k3)

end Sys2Proof.Machine
end

