-- ==== Sys2Proof/Machine/Untyped.lean ====
section
/-! DEFINITION. The pure functions on bit sequences of any length, with the length checks the typed engine cannot fail
(40_bitvector.md R75, 60_exceptions.md R151): `E_LEN` before any other step, and no output. Where the spec gives no
meaning (U1, U2 of 93_implementation_defined.md) the answer is `none` (70_reset_and_hazards.md R175). Log 11. -/

namespace Sys2Proof.Machine

/-- 40_bitvector.md R65, refusing an index out of range (U1). -/
def untypedPermute (b : Bits) (table : List Nat) : Option Bits :=
  if table.all (fun t => decide (1 ≤ t) && decide (t ≤ b.length)) then some (table.map fun t => b.getD (t - 1) false)
  else none

/-- 40_bitvector.md R66, refusing `n >= len(bits)` (U2). -/
def untypedCircularShiftLeft (b : Bits) (n : Nat) : Option Bits :=
  if n < b.length then some (b.drop n ++ b.take n) else none

/-- 40_bitvector.md R67: unequal lengths are `E_LEN`, recorded with the second operand's length (log 11). -/
def untypedXor (a b : Bits) : Except Error Bits :=
  if a.length = b.length then .ok (List.zipWith Bool.xor a b) else .error (.eLen .xor b.length)

/-- The length check at the entry of a function (60_exceptions.md R151, R158). -/
def requireLength (function : FunctionName) (n : Nat) (b : Bits) : Except Error Unit :=
  if b.length = n then .ok () else .error (.eLen function b.length)

/-- 41_sbox.md R80 on a sequence of any length. -/
def untypedSubstitute (b : Bits) : Except Error Bits := do
  requireLength .substitute 48 b
  return toBits (substitute (ofBits 48 b))

/-- 42_key_schedule.md R90 on a sequence of any length. -/
def untypedGenerateSubkeys (key : Bits) : Except Error (List Bits) := do
  requireLength .generateSubkeys 64 key
  return (generateSubkeys (ofBits 64 key)).toList.map toBits

/-- 44_des_block.md R115: the block's length is checked first, then the key's (60_exceptions.md R158). -/
def untypedDesEncryptBlock (b key : Bits) : Except Error Bits := do
  requireLength .desEncryptBlock 64 b
  requireLength .desEncryptBlock 64 key
  return toBits (desEncryptBlock (ofBits 64 b) (ofBits 64 key))

/-- 44_des_block.md R115 for decryption. -/
def untypedDesDecryptBlock (b key : Bits) : Except Error Bits := do
  requireLength .desDecryptBlock 64 b
  requireLength .desDecryptBlock 64 key
  return toBits (desDecryptBlock (ofBits 64 b) (ofBits 64 key))

/-- 45_tdes_ecb.md R120 on sequences of any length: each stage checks its own arguments. -/
def untypedTripleEncryptBlock (b k1 k2 k3 : Bits) : Except Error Bits := do
  let s1 ← untypedDesEncryptBlock b k1
  let s2 ← untypedDesDecryptBlock s1 k2
  untypedDesEncryptBlock s2 k3

/-- 45_tdes_ecb.md R121 on sequences of any length. -/
def untypedTripleDecryptBlock (b k1 k2 k3 : Bits) : Except Error Bits := do
  let s1 ← untypedDesDecryptBlock b k3
  let s2 ← untypedDesEncryptBlock s1 k2
  untypedDesDecryptBlock s2 k1

end Sys2Proof.Machine
end

