-- ==== Sys2Proof/Safety.lean ====
section
/-! DEFINITION. What the claims say a good state is: the invariants of 10_state.md that every step keeps. -/

namespace Sys2Proof.Machine

/-- 10_state.md R20, R21: the values `STATUS` can hold. Bit 3 is 0; `ECODE` is 0, 3 or 4 (1 never appears at the register
interface, 60_exceptions.md R151, and 2 is the adapter's); with an error the diagnostic bits are 0; `PADNEEDED` and
`ALIGNED` are never both set, and `SBVALID` is set only with `ALIGNED` (45_tdes_ecb.md R126, R130). -/
def statusLegal (v : BitVec 8) : Bool :=
  !v.getLsbD 3
    && (ecodeOf v == 0 || ecodeOf v == 3 || ecodeOf v == 4)
    && (ecodeOf v == 0 || (!padNeededOf v && !alignedOf v && !sbValidOf v))
    && !(padNeededOf v && alignedOf v)
    && (!sbValidOf v || alignedOf v)

/-- Every listed byte of a space has an address in `MAXBYTES` (20_memory.md R30). -/
def withinCapacity (cfg : Config) (m : Memory) : Prop := ∀ c ∈ m, fitsCapacity cfg (c.1 + 1) = true

/-- Every listed byte of `MO` has an address in `MAXBYTES + 8` (20_memory.md R30). -/
def withinOutCapacity (cfg : Config) (m : Memory) : Prop := ∀ c ∈ m, fitsOutCapacity cfg (c.1 + 1) = true

/-- The invariant of the block between commands. -/
structure State.Inv (s : State) : Prop where
  /-- `MI` is in canonical form. -/
  miCanonical : Memory.wf s.MI = true
  /-- `MO` is in canonical form. -/
  moCanonical : Memory.wf s.MO = true
  /-- `MI` lists only addresses it has (20_memory.md R30). -/
  miWithin : withinCapacity s.cfg s.MI
  /-- `MO` lists only addresses it has (20_memory.md R30). -/
  moWithin : withinOutCapacity s.cfg s.MO
  /-- `MO` holds `MOLEN` bytes at addresses 0 to `MOLEN - 1` (10_state.md R18). -/
  moHeld : ∀ a < s.MOLEN, (Memory.read? s.MO a).isSome
  /-- `MOLEN` is within the capacity of `MO` (10_state.md R18). -/
  moFits : fitsOutCapacity s.cfg s.MOLEN = true
  /-- `STATUS` is one of the values it can hold (10_state.md R20). -/
  status : statusLegal s.STATUS = true
  /-- The sequencer is idle between commands (10_state.md R14). -/
  seqIdle : s.SEQ = none

end Sys2Proof.Machine
end

