-- ==== Sys2Proof/Certificates/Slice0/Obligations.lean ====
section
/-! DEFINITION. The statements for the provers. Where a rule of spec/ has a second form (a flattened table, a closed
formula, a sequence of commands), the statement uses that form, so that it does not repeat the model's definition. -/

namespace Sys2Proof.Spec

open Sys2Proof.Machine

/-! ### Second forms of the rules -/

/-- 30_encoding.md R52, R53: the twelve legal command words. -/
def legalWords : List (BitVec 8) := [0x01, 0x02, 0x03, 0x04, 0x05, 0x06, 0x07, 0x08, 0x09, 0x19, 0x0A, 0x1A]

/-! 41_sbox.md R86: the boxes addressed by the 6-bit chunk value, `F_i[0]` to `F_i[63]`. -/

def flatF1 : List Nat :=
  [14, 0, 4, 15, 13, 7, 1, 4, 2, 14, 15, 2, 11, 13, 8, 1, 3, 10, 10, 6, 6, 12, 12, 11, 5, 9, 9, 5, 0, 3, 7, 8,
   4, 15, 1, 12, 14, 8, 8, 2, 13, 4, 6, 9, 2, 1, 11, 7, 15, 5, 12, 11, 9, 3, 7, 14, 3, 10, 10, 0, 5, 6, 0, 13]

def flatF2 : List Nat :=
  [15, 3, 1, 13, 8, 4, 14, 7, 6, 15, 11, 2, 3, 8, 4, 14, 9, 12, 7, 0, 2, 1, 13, 10, 12, 6, 0, 9, 5, 11, 10, 5,
   0, 13, 14, 8, 7, 10, 11, 1, 10, 3, 4, 15, 13, 4, 1, 2, 5, 11, 8, 6, 12, 7, 6, 12, 9, 0, 3, 5, 2, 14, 15, 9]

def flatF3 : List Nat :=
  [10, 13, 0, 7, 9, 0, 14, 9, 6, 3, 3, 4, 15, 6, 5, 10, 1, 2, 13, 8, 12, 5, 7, 14, 11, 12, 4, 11, 2, 15, 8, 1,
   13, 1, 6, 10, 4, 13, 9, 0, 8, 6, 15, 9, 3, 8, 0, 7, 11, 4, 1, 15, 2, 14, 12, 3, 5, 11, 10, 5, 14, 2, 7, 12]

def flatF4 : List Nat :=
  [7, 13, 13, 8, 14, 11, 3, 5, 0, 6, 6, 15, 9, 0, 10, 3, 1, 4, 2, 7, 8, 2, 5, 12, 11, 1, 12, 10, 4, 14, 15, 9,
   10, 3, 6, 15, 9, 0, 0, 6, 12, 10, 11, 1, 7, 13, 13, 8, 15, 9, 1, 4, 3, 5, 14, 11, 5, 12, 2, 7, 8, 2, 4, 14]

def flatF5 : List Nat :=
  [2, 14, 12, 11, 4, 2, 1, 12, 7, 4, 10, 7, 11, 13, 6, 1, 8, 5, 5, 0, 3, 15, 15, 10, 13, 3, 0, 9, 14, 8, 9, 6,
   4, 11, 2, 8, 1, 12, 11, 7, 10, 1, 13, 14, 7, 2, 8, 13, 15, 6, 9, 15, 12, 0, 5, 9, 6, 10, 3, 4, 0, 5, 14, 3]

def flatF6 : List Nat :=
  [12, 10, 1, 15, 10, 4, 15, 2, 9, 7, 2, 12, 6, 9, 8, 5, 0, 6, 13, 1, 3, 13, 4, 14, 14, 0, 7, 11, 5, 3, 11, 8,
   9, 4, 14, 3, 15, 2, 5, 12, 2, 9, 8, 5, 12, 15, 3, 10, 7, 11, 0, 14, 4, 1, 10, 7, 1, 6, 13, 0, 11, 8, 6, 13]

def flatF7 : List Nat :=
  [4, 13, 11, 0, 2, 11, 14, 7, 15, 4, 0, 9, 8, 1, 13, 10, 3, 14, 12, 3, 9, 5, 7, 12, 5, 2, 10, 15, 6, 8, 1, 6,
   1, 6, 4, 11, 11, 13, 13, 8, 12, 1, 3, 4, 7, 10, 14, 7, 10, 9, 15, 5, 6, 0, 8, 15, 0, 14, 5, 2, 9, 3, 2, 12]

def flatF8 : List Nat :=
  [13, 1, 2, 15, 8, 13, 4, 8, 6, 10, 15, 3, 11, 7, 1, 4, 10, 12, 9, 5, 3, 6, 14, 11, 5, 0, 0, 14, 12, 9, 7, 2,
   7, 2, 11, 1, 4, 14, 1, 7, 9, 4, 12, 10, 14, 8, 2, 13, 0, 15, 6, 12, 10, 9, 13, 0, 15, 3, 3, 5, 5, 6, 8, 11]

def flatBoxes : List (List Nat) := [flatF1, flatF2, flatF3, flatF4, flatF5, flatF6, flatF7, flatF8]

/-- R86: `F_{i+1}[v]`. -/
def flatEntry (i v : Nat) : Nat := (flatBoxes.getD i []).getD v 0

/-- 42_key_schedule.md R93, third line: the cumulative rotation after round `n + 1`. -/
def cumulativeShift : List Nat := [1, 2, 4, 6, 8, 10, 12, 14, 15, 17, 19, 21, 23, 25, 27, 28]

/-- 42_key_schedule.md R90 to R94 as one formula: the position of the key that bit `i + 1` of `SK[n + 1]` copies. PC2's
entry is a position of `C ‖ D`, each half rotated left by the cumulative amount; PC1's entry there is the key's. -/
def subkeySource (n i : Nat) : Nat :=
  let p := tablePC2.entries.getD i 0
  let c := cumulativeShift.getD n 0
  let q := if p ≤ 28 then (p - 1 + c) % 28 + 1 else (p - 29 + c) % 28 + 29
  tablePC1.entries.getD (q - 1) 0

/-- Two keys that agree outside positions 8, 16, 24, 32, 40, 48, 56, 64 (10_state.md R12, 42_key_schedule.md R96). -/
def sameKeyBits (k k' : Key64) : Prop := ∀ p, 1 ≤ p → p ≤ 64 → p % 8 ≠ 0 → bitAt k p = bitAt k' p

/-- Byte `j` of the data MENC (with `p`) or MDEC (with `p = false`) works on (45_tdes_ecb.md R124, R125, R128). -/
def preparedByte (p : Bool) (s : State) (j : Nat) : Byte :=
  if j < s.MILEN then miByte s j else if p then BitVec.ofNat 8 (8 - s.MILEN % 8) else 0

/-- Block `i` of a byte space, bytes `8i` to `8i + 7` (45_tdes_ecb.md R123). -/
def blockAt (f : Nat → Byte) (i : Nat) : Block64 :=
  bytesToBlock (f (8 * i)) (f (8 * i + 1)) (f (8 * i + 2)) (f (8 * i + 3)) (f (8 * i + 4)) (f (8 * i + 5)) (f (8 * i + 6))
    (f (8 * i + 7))

/-- The stage with number `n + 1` (10_state.md R14). -/
def stageOf : Nat → Stage
  | 0 => .one
  | 1 => .two
  | _ => .three

/-- 30_encoding.md R50: the code points of `0` to `9` and `a` to `f`. -/
def lowercaseDigits : Text := [48, 49, 50, 51, 52, 53, 54, 55, 56, 57, 97, 98, 99, 100, 101, 102]

/-- The characters the sanitising filter keeps (45_tdes_ecb.md R134, R138). -/
def keepsCharacter (c : CodePoint) : Bool := 32 ≤ c || c == 9 || c == 10 || c == 13

/-- The 64-bit key of a key string: its first 8 characters, then spaces, the first character in positions 1 to 8
(45_tdes_ecb.md R132). -/
def keyOfCharacters (key : Text) : Key64 := blockAt (fun j => BitVec.ofNat 8 (key.getD j 32)) 0

/-- Byte `j` of the data ENCRYPT encrypts: the characters, then padding or null bytes (45_tdes_ecb.md R124, R125, R135). -/
def preparedCharacter (p : Bool) (plaintext : Text) (j : Nat) : Byte :=
  if j < plaintext.length then BitVec.ofNat 8 (plaintext.getD j 0)
  else if p then BitVec.ofNat 8 (8 - plaintext.length % 8) else 0

/-- 45_tdes_ecb.md R124, R125: the length of a message of `n` bytes after padding (`p`) or null fill. -/
def preparedLength (p : Bool) (n : Nat) : Nat := if p then 8 * (n / 8 + 1) else 8 * ((n + 7) / 8)

/-- How many hexadecimal digits a text has (30_encoding.md R50). -/
def hexDigitCount (t : Text) : Nat :=
  (t.filter fun c => (48 ≤ c && c ≤ 57) || (65 ≤ c && c ≤ 70) || (97 ≤ c && c ≤ 102)).length

/-- Every character that a pseudo-operation converts has a code point of at most 255 (45_tdes_ecb.md R132, R135). -/
def allSingleByte (t : Text) : Prop := ∀ c ∈ t, c ≤ 255

/-! ### Frames -/

/-- The registers the host writes, and what no operation touches, are as before (10_state.md R23). -/
def sameOperands (s t : State) : Prop :=
  t.K1 = s.K1 ∧ t.K2 = s.K2 ∧ t.K3 = s.K3 ∧ t.DI = s.DI ∧ t.X = s.X ∧ t.MILEN = s.MILEN ∧ t.SEQ = s.SEQ ∧ t.cfg = s.cfg ∧
    t.host = s.host ∧ ∀ a, miByte t a = miByte s a

/-- The message result is as before: every byte of `MO`, and `MOLEN`. -/
def sameMessageOut (s t : State) : Prop := t.MOLEN = s.MOLEN ∧ ∀ a, moByte t a = moByte s a

/-- Every register but `MI` and `MILEN` is as before, and every byte of `MO`. -/
def sameButMessageIn (s t : State) : Prop :=
  sameMessageOut s t ∧ t.K1 = s.K1 ∧ t.K2 = s.K2 ∧ t.K3 = s.K3 ∧ t.DI = s.DI ∧ t.X = s.X ∧ t.DO = s.DO ∧ t.Y = s.Y ∧
    t.SK = s.SK ∧ t.SB = s.SB ∧ t.STATUS = s.STATUS ∧ t.SEQ = s.SEQ ∧ t.cfg = s.cfg

/-- 10_state.md R24: the values the spec states for reset. The contents of the buffers are unspecified there: no byte is
held (log 3). -/
def hasResetValues (t : State) : Prop :=
  t.K1 = 0 ∧ t.K2 = 0 ∧ t.K3 = 0 ∧ t.DI = 0 ∧ t.X = 0 ∧ t.DO = 0 ∧ t.Y = 0 ∧ (∀ n : Fin 16, t.SK[n] = 0) ∧ t.SB = 0 ∧
    t.MILEN = 0 ∧ t.MOLEN = 0 ∧ t.STATUS = 0x00 ∧ t.SEQ = none ∧ ∀ a, Memory.read? t.MI a = none ∧ Memory.read? t.MO a = none

/-! ### Read and write sets (10_state.md R23) -/

/-- Two states agree on what an operation reads, by its row of R23. (`MAXBYTES` is a constant of the block.) -/
def agreeOnReads (i : Instr) (s s' : State) : Prop :=
  match i with
  | .subst => s.X = s'.X
  | .ksched => s.K1 = s'.K1
  | .ffunc => rightHalf s.DI = rightHalf s'.DI ∧ s.X = s'.X
  | .round => s.DI = s'.DI ∧ s.X = s'.X
  | .desenc => s.DI = s'.DI ∧ s.K1 = s'.K1
  | .desdec => s.DI = s'.DI ∧ s.K1 = s'.K1
  | .tenc => s.DI = s'.DI ∧ s.K1 = s'.K1 ∧ s.K2 = s'.K2 ∧ s.K3 = s'.K3
  | .tdec => s.DI = s'.DI ∧ s.K1 = s'.K1 ∧ s.K2 = s'.K2 ∧ s.K3 = s'.K3
  | .menc _ | .mdec _ =>
    s.cfg = s'.cfg ∧ s.MILEN = s'.MILEN ∧ (∀ a < s.MILEN, miByte s a = miByte s' a) ∧ s.K1 = s'.K1 ∧ s.K2 = s'.K2 ∧ s.K3 = s'.K3

/-- Two states agree on what an operation wrote, by its row of R23. -/
def agreeOnWrites (i : Instr) (t t' : State) : Prop :=
  t.STATUS = t'.STATUS ∧
  match i with
  | .subst => t.Y = t'.Y
  | .ksched => t.SK = t'.SK
  | .ffunc => t.Y = t'.Y
  | .round => t.DO = t'.DO
  | .desenc => t.DO = t'.DO
  | .desdec => t.DO = t'.DO
  | .tenc => t.DO = t'.DO
  | .tdec => t.DO = t'.DO
  | .menc _ | .mdec _ =>
    (ecodeOf t.STATUS = 0 → t.MOLEN = t'.MOLEN ∧ ∀ a < t.MOLEN, moByte t a = moByte t' a) ∧
      (sbValidOf t.STATUS = true → t.SB = t'.SB)

/-- What an `RD` of a register or of a `STATUS` field returns (30_encoding.md R55, 10_state.md R20). Buffers have their
own statement, and `CMD` has no read port. -/
def registerValue (p : ReadPort) (s : State) : Option ReadValue :=
  match p with
  | .K1 => some (.bits64 s.K1)
  | .K2 => some (.bits64 s.K2)
  | .K3 => some (.bits64 s.K3)
  | .DI => some (.bits64 s.DI)
  | .X => some (.bits48 s.X)
  | .DO => some (.bits64 s.DO)
  | .Y => some (.bits32 s.Y)
  | .SK n => some (.bits48 s.SK[n])
  | .SB => some (.bits64 s.SB)
  | .MILEN => some (.length s.MILEN)
  | .MOLEN => some (.length s.MOLEN)
  | .STATUS => some (.bits8 s.STATUS)
  | .PADNEEDED => some (.bit (s.STATUS.getLsbD 0))
  | .ALIGNED => some (.bit (s.STATUS.getLsbD 1))
  | .SBVALID => some (.bit (s.STATUS.getLsbD 2))
  | .ECODE => some (.bits4 (s.STATUS.extractLsb' 4 4))
  | .MI | .MO | .miByte _ | .moByte _ | .CMD => none

end Sys2Proof.Spec

open Sys2Proof Sys2Proof.Machine Sys2Proof.Spec

/-! ## Encoding and stepping -/

/-- 30_encoding.md R52: the words of the operation map, written out. -/
def Obligations.CommandWordsDecode : Prop :=
  decode 0x01 = .ok .subst ∧ decode 0x02 = .ok .ksched ∧ decode 0x03 = .ok .ffunc ∧ decode 0x04 = .ok .round ∧
  decode 0x05 = .ok .desenc ∧ decode 0x06 = .ok .desdec ∧ decode 0x07 = .ok .tenc ∧ decode 0x08 = .ok .tdec ∧
  decode 0x09 = .ok (.menc false) ∧ decode 0x19 = .ok (.menc true) ∧
  decode 0x0A = .ok (.mdec false) ∧ decode 0x1A = .ok (.mdec true)

/-- 30_encoding.md R53: a word is legal exactly when it is one of the twelve. -/
def Obligations.LegalWordsAreTheTwelve : Prop := ∀ c : BitVec 8, (∃ i, decode c = .ok i) ↔ c ∈ legalWords

/-- 30_encoding.md R52: decoding an operation's word gives the operation, and each legal word is the word of what it
decodes to. -/
def Obligations.EncodeAndDecodeAgree : Prop :=
  (∀ i, decode (encode i) = .ok i) ∧ ∀ c i, decode c = .ok i → encode i = c

/-- 10_state.md R10, R19: a step whose next host action is a `CMD` write of a legal word runs that operation, and takes
the action off the host's queue (log 1). -/
def Obligations.StepRunsDecodedCommand : Prop :=
  ∀ (s : State) (c : BitVec 8) (rest : List HostAction) (i : Instr),
    s.host = .cmd c :: rest → decode c = .ok i → step s = exec i { s with host := rest }

/-- The model's fetch (log 1): a word placed by `withFetchWord` is the instruction the next step runs. -/
def Obligations.FetchedWordRuns : Prop :=
  ∀ (s : State) (i : Instr),
    decodeTableWord 8 (encode i).toNat = some i ∧ step (s.withFetchWord 8 (encode i).toNat) = exec i s

/-- 60_exceptions.md R153, R156, R158: an illegal word writes `ECODE` and no other register, whatever
else holds. (`reply` is the model's own, log 8; the queue log 1.) -/
def Obligations.IllegalCommandTakesEIllop : Prop :=
  ∀ (s : State) (c : BitVec 8) (rest : List HostAction), s.host = .cmd c :: rest → c ∉ legalWords →
    step s = .next { s with host := rest, STATUS := 0x30, reply := .error (.eIllop c) }

/-- 60_exceptions.md R161: between commands the block is idle and holds its registers. (That a step with no pending
action is such an idle step is the model's choice, log 1.) -/
def Obligations.IdleStepHoldsState : Prop := ∀ s : State, s.host = [] → step s = .next s

/-- 20_memory.md R36 (d): the host's actions take effect in the order it issues them, each complete before the next
(the queue is the model's own, log 1). -/
def Obligations.QueuedActionsServedInOrder : Prop :=
  ∀ (s : State) (acts rest : List HostAction),
    Host.Core.run Sys2Proof.core acts.length { s with host := acts ++ rest } = serveAll acts { s with host := rest }

/-! ## S-boxes, key schedule, round -/

/-- 41_sbox.md R80 to R83 with the flattened tables of R86: nibble `i + 1` of `Y` is `F_{i+1}` at chunk `i + 1` of `X`. -/
def Obligations.SubstLooksUpFlatTables : Prop :=
  ∀ s : State, ∃ t, exec .subst s = .next t ∧ t.STATUS = 0x00 ∧
    ∀ i < 8, t.Y.extractLsb' (28 - 4 * i) 4 = BitVec.ofNat 4 (flatEntry i (s.X.extractLsb' (42 - 6 * i) 6).toNat)

/-- 41_sbox.md R85: each of the 32 rows contains every value 0 to 15 exactly once. -/
def Obligations.SboxRowsArePermutations : Prop :=
  ∀ (i : Fin 8) (r : Fin 4) (v : Nibble4), ∃ c : Fin 16, sboxes[i][r][c] = v ∧ ∀ c' : Fin 16, sboxes[i][r][c'] = v → c' = c

/-- 42_key_schedule.md R90 to R95 in closed form. -/
def Obligations.KschedCopiesRotatedKeyBits : Prop :=
  ∀ s : State, ∃ t, exec .ksched s = .next t ∧ t.STATUS = 0x00 ∧
    ∀ (n : Fin 16) (i : Nat), i < 48 → bitAt t.SK[n] (i + 1) = bitAt s.K1 (subkeySource n i)

/-- 42_key_schedule.md R93, whole: the amounts, the cumulative line as it rotates any half, and the return after round
16 (the case `n = 15`). -/
def Obligations.ShiftScheduleAccumulates : Prop :=
  shiftSchedule.length = 16 ∧
  (∀ n < 16, (shiftSchedule.getD n 0).val = if n + 1 ∈ [1, 2, 9, 16] then 1 else 2) ∧
  (∀ (H : KeyHalf28) (n j : Nat), n < 16 → j < 28 →
    bitAt ((shiftSchedule.take (n + 1)).foldl (fun h m => rotl h m) H) (j + 1)
      = bitAt H ((j + cumulativeShift.getD n 0) % 28 + 1)) ∧
  ∀ H : KeyHalf28, shiftSchedule.foldl (fun h m => rotl h m) H = H

/-- 43_feistel.md R100 to R102 by commands and positions: FFUNC is SUBST of the expanded half-block XOR the subkey, then
P. Expanded position `6i + j + 1` copies position `((4i + j - 1) mod 32) + 1` of the half-block, the ring form of E. -/
def Obligations.FfuncExpandsSubstitutesPermutes : Prop :=
  ∀ (s : State) (z : Sub48),
    (∀ i < 8, ∀ j < 6, bitAt z (6 * i + j + 1)
      = Bool.xor (bitAt s.DI (32 + ((4 * i + j + 31) % 32 + 1))) (bitAt s.X (6 * i + j + 1))) →
    ∃ t u, exec .ffunc s = .next t ∧ exec .subst { s with X := z } = .next u ∧ t.STATUS = 0x00 ∧
      ∀ i < 32, bitAt t.Y (i + 1) = bitAt u.Y (tableP.entries.getD i 0)

/-- 43_feistel.md R103: the new left half is the right half, the new right half is the left half XOR what FFUNC gives. -/
def Obligations.RoundExchangesAndMixesHalves : Prop :=
  ∀ s : State, ∃ t u, exec .round s = .next t ∧ exec .ffunc s = .next u ∧ t.STATUS = 0x00 ∧
    (∀ j < 32, bitAt t.DO (j + 1) = bitAt s.DI (32 + (j + 1))) ∧
    ∀ j < 32, bitAt t.DO (32 + (j + 1)) = Bool.xor (bitAt s.DI (j + 1)) (bitAt u.Y (j + 1))

/-- 43_feistel.md R104: ROUND on the exchanged result with the same subkey gives the operands exchanged. -/
def Obligations.ExchangedRoundUndoesRound : Prop :=
  ∀ s : State, ∃ t u, exec .round s = .next t ∧
    exec .round { t with DI := rightHalf t.DO ++ leftHalf t.DO } = .next u ∧
    u.DO = rightHalf s.DI ++ leftHalf s.DI

/-! ## Single DES -/

/-- 44_des_block.md R113: FP and IP undo each other. -/
def Obligations.FinalPermutationUndoesInitial : Prop :=
  ∀ b : Block64, permute (permute b tableIP) tableFP = b ∧ permute (permute b tableFP) tableIP = b

/-- 44_des_block.md R110, R114: DESENC is IP, sixteen ROUND commands with the subkeys KSCHED leaves in the order 1 to 16
(the host copying `DO` to `DI` between them), the exchange `R ‖ L`, FP. -/
def Obligations.DesencIsSixteenRoundCommands : Prop :=
  ∀ (s t : State) (u v : Nat → State), exec .ksched s = .next t →
    u 0 = { t with DI := permute s.DI tableIP } →
    (∀ n : Fin 16, exec .round { u n with X := t.SK[n] } = .next (v n) ∧ u (n + 1) = { v n with DI := (v n).DO }) →
    ∃ w, exec .desenc s = .next w ∧ w.STATUS = 0x00 ∧
      w.DO = permute (rightHalf (u 16).DI ++ leftHalf (u 16).DI) tableFP

/-- 44_des_block.md R111, R114: DESDEC is the same with the subkeys in the order 16 to 1. -/
def Obligations.DesdecIsSixteenRoundCommandsReversed : Prop :=
  ∀ (s t : State) (u v : Nat → State), exec .ksched s = .next t →
    u 0 = { t with DI := permute s.DI tableIP } →
    (∀ n : Fin 16, exec .round { u n with X := t.SK[n.rev] } = .next (v n) ∧ u (n + 1) = { v n with DI := (v n).DO }) →
    ∃ w, exec .desdec s = .next w ∧ w.STATUS = 0x00 ∧
      w.DO = permute (rightHalf (u 16).DI ++ leftHalf (u 16).DI) tableFP

/-- 44_des_block.md R116: each of DESENC and DESDEC undoes the other, for every block and key. -/
def Obligations.DesdecUndoesDesenc : Prop :=
  ∀ s : State,
    (∃ t u, exec .desenc s = .next t ∧ exec .desdec { t with DI := t.DO } = .next u ∧ u.DO = s.DI) ∧
    ∃ t u, exec .desdec s = .next t ∧ exec .desenc { t with DI := t.DO } = .next u ∧ u.DO = s.DI

/-- 10_state.md R12: no operation writes a key register, any value is a legal key, and the eight parity positions of the
keys change nothing an operation does. -/
def Obligations.KeyParityPositionsIgnored : Prop :=
  (∀ (i : Instr) (s : State), ∃ t, exec i s = .next t ∧ t.K1 = s.K1 ∧ t.K2 = s.K2 ∧ t.K3 = s.K3) ∧
  ∀ (i : Instr) (s : State) (k1 k2 k3 : Key64), sameKeyBits s.K1 k1 → sameKeyBits s.K2 k2 → sameKeyBits s.K3 k3 →
    ∃ t, exec i s = .next t ∧
      exec i { s with K1 := k1, K2 := k2, K3 := k3 } = .next { t with K1 := k1, K2 := k2, K3 := k3 }

/-! ## Triple DES -/

/-- 45_tdes_ecb.md R120, R121: TENC is the host sequence DESENC, DESDEC, DESENC with K1, K2, K3 in the key register, and
TDEC is DESDEC, DESENC, DESDEC with K3, K2, K1, `DO` copied to `DI` between them. -/
def Obligations.TripleIsThreeDesCommands : Prop :=
  ∀ s : State,
    (∃ t1 t2 t3 t, exec .desenc s = .next t1 ∧ exec .desdec { t1 with DI := t1.DO, K1 := s.K2 } = .next t2 ∧
      exec .desenc { t2 with DI := t2.DO, K1 := s.K3 } = .next t3 ∧ exec .tenc s = .next t ∧ t.DO = t3.DO ∧
      t.STATUS = 0x00) ∧
    ∃ t1 t2 t3 t, exec .desdec { s with K1 := s.K3 } = .next t1 ∧
      exec .desenc { t1 with DI := t1.DO, K1 := s.K2 } = .next t2 ∧
      exec .desdec { t2 with DI := t2.DO, K1 := s.K1 } = .next t3 ∧ exec .tdec s = .next t ∧ t.DO = t3.DO ∧
      t.STATUS = 0x00

/-- 45_tdes_ecb.md R122 (a), and the other direction: each of TENC and TDEC undoes the other for every key triple. -/
def Obligations.TdecUndoesTenc : Prop :=
  ∀ s : State,
    (∃ t u, exec .tenc s = .next t ∧ exec .tdec { t with DI := t.DO } = .next u ∧ u.DO = s.DI) ∧
    ∃ t u, exec .tdec s = .next t ∧ exec .tenc { t with DI := t.DO } = .next u ∧ u.DO = s.DI

/-- 45_tdes_ecb.md R122 (b), 70_reset_and_hazards.md R178: with K1 = K2, or K2 = K3, TENC is a single DESENC under the
remaining key and TDEC a single DESDEC under it; with all three equal both conditions hold. -/
def Obligations.EqualKeysCollapseToSingleDes : Prop :=
  ∀ s : State,
    (s.K1 = s.K2 → ∃ t u v w, exec .tenc s = .next t ∧ exec .desenc { s with K1 := s.K3 } = .next u ∧ t.DO = u.DO ∧
      exec .tdec s = .next v ∧ exec .desdec { s with K1 := s.K3 } = .next w ∧ v.DO = w.DO) ∧
    (s.K2 = s.K3 → ∃ t u v w, exec .tenc s = .next t ∧ exec .desenc s = .next u ∧ t.DO = u.DO ∧
      exec .tdec s = .next v ∧ exec .desdec s = .next w ∧ v.DO = w.DO)

/-! ## Frames -/

/-- 10_state.md R23: SUBST and FFUNC complete and write `Y` and `STATUS` only. -/
def Obligations.SubstFfuncFrame : Prop :=
  ∀ (i : Instr) (s : State), i = .subst ∨ i = .ffunc → ∃ t, exec i s = .next t ∧ sameOperands s t ∧
    sameMessageOut s t ∧ t.DO = s.DO ∧ t.SK = s.SK ∧ t.SB = s.SB ∧ t.STATUS = 0x00

/-- 10_state.md R23: KSCHED completes and writes `SK` and `STATUS` only. -/
def Obligations.KschedFrame : Prop :=
  ∀ s : State, ∃ t, exec .ksched s = .next t ∧ sameOperands s t ∧
    sameMessageOut s t ∧ t.DO = s.DO ∧ t.Y = s.Y ∧ t.SB = s.SB ∧ t.STATUS = 0x00

/-- 10_state.md R15, R23: ROUND, DESENC, DESDEC, TENC and TDEC complete and write `DO` and `STATUS` only; in particular
none writes `SK`. -/
def Obligations.DataOutOperationsFrame : Prop :=
  ∀ (i : Instr) (s : State), i = .round ∨ i = .desenc ∨ i = .desdec ∨ i = .tenc ∨ i = .tdec →
    ∃ t, exec i s = .next t ∧ sameOperands s t ∧
      sameMessageOut s t ∧ t.Y = s.Y ∧ t.SK = s.SK ∧ t.SB = s.SB ∧ t.STATUS = 0x00

/-- 10_state.md R23, 45_tdes_ecb.md R127, R128: MENC and MDEC of a message that fits store to `MO` at addresses 0 to
`MOLEN - 1` and write `MOLEN`, `STATUS` and, in the case of R130, `SB`; every other register is as before. That the bytes
of `MO` at or beyond `MOLEN` are as before is the model's choice (log 3, after `MemWrite` of 00_scope.md R8). -/
def Obligations.MessageOperationsFrame : Prop :=
  ∀ (i : Instr) (p : Bool) (s : State), i = .menc p ∨ i = .mdec p → fitsCapacity s.cfg s.MILEN = true →
    ∃ t, exec i s = .next t ∧ sameOperands s t ∧ (∀ a, t.MOLEN ≤ a → moByte t a = moByte s a) ∧
      t.DO = s.DO ∧ t.Y = s.Y ∧ t.SK = s.SK ∧ (¬ (i = .menc true ∧ s.MILEN = 8) → t.SB = s.SB)

/-! ## Messages -/

/-- 45_tdes_ecb.md R123 to R125, R127: MENC's length, and every output block the triple encryption of its prepared
input block. -/
def Obligations.MencEncryptsEachBlock : Prop :=
  ∀ (p : Bool) (s : State), fitsCapacity s.cfg s.MILEN = true →
    ∃ t, exec (.menc p) s = .next t ∧
      t.MOLEN = (if p then 8 * (s.MILEN / 8 + 1) else 8 * ((s.MILEN + 7) / 8)) ∧
      ∀ i, 8 * i < t.MOLEN → blockAt (moByte t) i = tripleEncryptBlock (blockAt (preparedByte p s) i) s.K1 s.K2 s.K3

/-- 45_tdes_ecb.md R128: MDEC null-fills whatever `P` is; every whole output block is the triple decryption of its input
block, and without padding requested all of them are there. -/
def Obligations.MdecDecryptsEachBlock : Prop :=
  ∀ (p : Bool) (s : State), fitsCapacity s.cfg s.MILEN = true →
    ∃ t, exec (.mdec p) s = .next t ∧ t.MOLEN ≤ 8 * ((s.MILEN + 7) / 8) ∧
      (p = false → t.MOLEN = 8 * ((s.MILEN + 7) / 8)) ∧
      ∀ i, 8 * i + 8 ≤ t.MOLEN → blockAt (moByte t) i = tripleDecryptBlock (blockAt (preparedByte false s) i) s.K1 s.K2 s.K3

/-- 45_tdes_ecb.md R129: MDEC.P gives MDEC's output less its last `n` bytes when they all hold `n` for an `n` of 1 to 8,
and all of it when there is no such `n`. -/
def Obligations.MdecPStripsExactlyThePadding : Prop :=
  ∀ s : State, fitsCapacity s.cfg s.MILEN = true →
    ∃ t u, exec (.mdec false) s = .next t ∧ exec (.mdec true) s = .next u ∧
      (∀ a < u.MOLEN, moByte u a = moByte t a) ∧
      (∀ n, 1 ≤ n → n ≤ 8 → n ≤ t.MOLEN → (∀ j < n, (moByte t (t.MOLEN - 1 - j)).toNat = n) → u.MOLEN = t.MOLEN - n) ∧
      ((¬ ∃ n, 1 ≤ n ∧ n ≤ 8 ∧ n ≤ t.MOLEN ∧ ∀ j < n, (moByte t (t.MOLEN - 1 - j)).toNat = n) → u.MOLEN = t.MOLEN)

/-- 45_tdes_ecb.md R126, R127, R128: the `STATUS` bits MENC and MDEC leave. -/
def Obligations.MessageStatusFields : Prop :=
  ∀ (i : Instr) (p : Bool) (s : State), i = .menc p ∨ i = .mdec p → fitsCapacity s.cfg s.MILEN = true →
    ∃ t, exec i s = .next t ∧
      (t.STATUS.getLsbD 0 = true ↔ s.MILEN % 8 ≠ 0) ∧ (t.STATUS.getLsbD 1 = true ↔ s.MILEN % 8 = 0) ∧
      (t.STATUS.getLsbD 2 = true ↔ i = .menc true ∧ s.MILEN = 8) ∧ t.STATUS.getLsbD 3 = false ∧
      t.STATUS.extractLsb' 4 4 = 0

/-- 45_tdes_ecb.md R130: with `P = 1` and exactly 8 bytes `SB` is the encryption of the message, which is the first
block of `MO` of the same command. -/
def Obligations.ComparisonResultIsFirstBlock : Prop :=
  ∀ s : State, fitsCapacity s.cfg s.MILEN = true → s.MILEN = 8 →
    ∃ t, exec (.menc true) s = .next t ∧ t.STATUS.getLsbD 2 = true ∧
      t.SB = tripleEncryptBlock (blockAt (miByte s) 0) s.K1 s.K2 s.K3 ∧ t.SB = blockAt (moByte t) 0

/-- 45_tdes_ecb.md R131: an output block is a function of its prepared input block and the three keys only, in any
message, at any position, whatever `P` is. -/
def Obligations.EqualBlocksGiveEqualBlocks : Prop :=
  ∀ (p p' : Bool) (s s' : State), fitsCapacity s.cfg s.MILEN = true → fitsCapacity s'.cfg s'.MILEN = true →
    s.K1 = s'.K1 → s.K2 = s'.K2 → s.K3 = s'.K3 →
    (∃ t t', exec (.menc p) s = .next t ∧ exec (.menc p') s' = .next t' ∧
      ∀ i i', 8 * i + 8 ≤ t.MOLEN → 8 * i' + 8 ≤ t'.MOLEN →
        blockAt (preparedByte p s) i = blockAt (preparedByte p' s') i' → blockAt (moByte t) i = blockAt (moByte t') i') ∧
    ∃ t t', exec (.mdec p) s = .next t ∧ exec (.mdec p') s' = .next t' ∧
      ∀ i i', 8 * i + 8 ≤ t.MOLEN → 8 * i' + 8 ≤ t'.MOLEN →
        blockAt (preparedByte false s) i = blockAt (preparedByte false s') i' → blockAt (moByte t) i = blockAt (moByte t') i'

/-- 45_tdes_ecb.md R124, R127 (95_test_vectors.md P5): a message that is a multiple of 8 bytes gains one block with
padding requested, the encryption of eight bytes 0x08, after the same blocks as without. -/
def Obligations.PaddingAddsWholeBlockToAlignedMessage : Prop :=
  ∀ s : State, fitsCapacity s.cfg s.MILEN = true → s.MILEN % 8 = 0 →
    ∃ t u, exec (.menc false) s = .next t ∧ exec (.menc true) s = .next u ∧ u.MOLEN = t.MOLEN + 8 ∧
      (∀ a < t.MOLEN, moByte u a = moByte t a) ∧
      blockAt (moByte u) (s.MILEN / 8) = tripleEncryptBlock 0x0808080808080808 s.K1 s.K2 s.K3

/-- 45_tdes_ecb.md R138 at the byte level: MDEC.P of MENC.P's output, written back by the host, is the message, for every
message whose ciphertext fits and every key triple. -/
def Obligations.PaddedMessageRoundTrip : Prop :=
  ∀ s : State, fitsCapacity s.cfg (8 * (s.MILEN / 8 + 1)) = true →
    ∃ t u, exec (.menc true) s = .next t ∧ exec (.mdec true) (t.writeMessageIn (messageOut t)) = .next u ∧
      u.MOLEN = s.MILEN ∧ ∀ a < s.MILEN, moByte u a = miByte s a

/-- 45_tdes_ecb.md R125, 70_reset_and_hazards.md R176: without padding MDEC returns the message with the null bytes that
filled its last block; nothing tells them from message bytes. -/
def Obligations.UnpaddedRoundTripKeepsNullFill : Prop :=
  ∀ s : State, fitsCapacity s.cfg (8 * ((s.MILEN + 7) / 8)) = true →
    ∃ t u, exec (.menc false) s = .next t ∧ exec (.mdec false) (t.writeMessageIn (messageOut t)) = .next u ∧
      u.MOLEN = 8 * ((s.MILEN + 7) / 8) ∧ (∀ a < s.MILEN, moByte u a = miByte s a) ∧
      ∀ a, s.MILEN ≤ a → a < u.MOLEN → moByte u a = 0

/-! ## Errors, hidden state, invariants -/

/-- 60_exceptions.md R154, R156: `E_CAP` writes `ECODE` and no other register (`reply`: log 8). -/
def Obligations.OversizeMessageTakesECap : Prop :=
  ∀ (i : Instr) (p : Bool) (s : State) (k : Nat), i = .menc p ∨ i = .mdec p → s.cfg.capacityBlocks = some k →
    8 * k < s.MILEN → exec i s = .next { s with STATUS := 0x40, reply := .error (.eCap s.MILEN) }

/-- 95_test_vectors.md section 2.10 (the model's reading of it, log 4; `reply`: log 8): a `WRM` longer than `MAXBYTES` is no error of its own; the MENC that follows
takes `E_CAP` and leaves every result register. -/
def Obligations.OverlongWriteThenMencTakesECap : Prop :=
  ∀ (s : State) (k : Nat) (bs : List Byte) (p : Bool), s.cfg.capacityBlocks = some k → 8 * k < bs.length →
    s.host = [.wrm bs, .cmd (encode (.menc p))] →
    ∃ t, Host.Core.run Sys2Proof.core 2 s = .next t ∧ t.STATUS = 0x40 ∧ t.reply = .error (.eCap bs.length) ∧
      sameMessageOut s t ∧ t.SB = s.SB ∧ t.DO = s.DO ∧ t.Y = s.Y ∧ t.SK = s.SK

/-- 60_exceptions.md R157: an error is not sticky: the next command does what it would have done without it. -/
def Obligations.ErrorIsNotSticky : Prop := ∀ (i : Instr) (s : State) (e : Error), exec i (raise s e) = exec i s

/-- 10_state.md R22, R23: what an operation writes is a function of what its row lists as read, and of nothing else. -/
def Obligations.NoHiddenState : Prop :=
  ∀ (i : Instr) (s s' : State), agreeOnReads i s s' →
    ∃ t t', exec i s = .next t ∧ exec i s' = .next t' ∧ agreeOnWrites i t t'

/-- 10_state.md R14, R18, R20, R21: every step keeps the block's invariant (Sys2Proof/Safety.lean). The canonical
form of the buffers is the model's own, and that the sequencer is idle rests on atomic commands (logs 10, 18). -/
def Obligations.StepKeepsInvariant : Prop := ∀ s t : State, s.Inv → step s = .next t → t.Inv

/-- The invariant holds at reset. -/
def Obligations.ResetMeetsInvariant : Prop := State.reset.Inv

/-- 70_reset_and_hazards.md R170, 10_state.md R24: `State.reset` has the values the spec states for reset, and so has the
state after a step that serves a reset, whatever the state before. (That reset is a host action and keeps the capacity and
the later actions is the model's choice, log 12; the values are the spec's own decision D5. The model's other fields are
choices of logs 1, 2, 3 and 8 and not stated.) -/
def Obligations.ResetValuesAreZero : Prop :=
  hasResetValues State.reset ∧
  ∀ (s : State) (rest : List HostAction), s.host = .reset :: rest →
    ∃ t, step s = .next t ∧ hasResetValues t ∧ t.cfg = s.cfg ∧ t.host = rest

/-! ## The host's side -/

/-- 10_state.md R11, R18, 30_encoding.md R55: a host write of a register, of `MILEN` or of one byte of `MI` writes that and
nothing else. (The last two are separate actions by log 6; a byte with an address `MI` does not have is a fault by log 7;
`reply`: log 8; the queue: log 1.) -/
def Obligations.HostWriteSetsOneRegister : Prop :=
  ∀ (s : State) (rest : List HostAction),
    (∀ w : RegWrite, s.host = .wr w :: rest →
      step s = .next (match w with
        | .K1 v => { s with host := rest, reply := .completed, K1 := v }
        | .K2 v => { s with host := rest, reply := .completed, K2 := v }
        | .K3 v => { s with host := rest, reply := .completed, K3 := v }
        | .DI v => { s with host := rest, reply := .completed, DI := v }
        | .X v => { s with host := rest, reply := .completed, X := v })) ∧
    (∀ n, s.host = .wrMilen n :: rest →
      ∃ t, step s = .next t ∧ t.MILEN = n ∧ (∀ a, miByte t a = miByte s a) ∧ sameButMessageIn s t ∧ t.host = rest) ∧
    ∀ addr b, s.host = .wrMi addr b :: rest →
      (fitsCapacity s.cfg (addr + 1) = true →
        ∃ t, step s = .next t ∧ miByte t addr = b ∧ (∀ a, a ≠ addr → miByte t a = miByte s a) ∧ t.MILEN = s.MILEN ∧
          sameButMessageIn s t ∧ t.host = rest) ∧
      (fitsCapacity s.cfg (addr + 1) = false → step s = .fault (.addressOutsideBuffer addr))

/-- 30_encoding.md R55: `WRM` writes the bytes given in order from address 0 and `MILEN` with their count; every other
register is as before. (Of a `WRM` longer than the capacity the bytes that have an address are written: log 4. That the
bytes of `MI` at or beyond the count are as before is the model's choice, log 3; the queue: log 1.) -/
def Obligations.HostMessageWriteStoresBytes : Prop :=
  ∀ (s : State) (bs : List Byte) (rest : List HostAction), s.host = .wrm bs :: rest →
    ∃ t, step s = .next t ∧ t.MILEN = bs.length ∧
      (∀ a < bs.length, fitsCapacity s.cfg (a + 1) = true → miByte t a = bs.getD a 0) ∧
      (∀ a, bs.length ≤ a ∨ fitsCapacity s.cfg (a + 1) = false → miByte t a = miByte s a) ∧
      sameButMessageIn s t ∧ t.host = rest

/-- 10_state.md R13: the host may read any register at any time, and reading has no side effect (the
value is in `reply`, log 8; the queue: log 1). -/
def Obligations.RegisterReadHasNoSideEffect : Prop :=
  ∀ (s : State) (p : ReadPort) (v : ReadValue) (rest : List HostAction), s.host = .rd p :: rest →
    registerValue p s = some v → step s = .next { s with host := rest, reply := .read v }

/-- 20_memory.md R30, R34, 30_encoding.md R55: reading a byte of a message, or a whole buffer, returns the bytes and
changes nothing else (`reply`: log 8; the queue: log 1; the premise that the length fits: log 7). -/
def Obligations.BufferReadReturnsMessageBytes : Prop :=
  ∀ (s : State) (rest : List HostAction),
    (∀ a, s.host = .rd (.miByte a) :: rest → a < s.MILEN → fitsCapacity s.cfg s.MILEN = true →
      step s = .next { s with host := rest, reply := .read (.bits8 (miByte s a)) }) ∧
    (∀ a, s.host = .rd (.moByte a) :: rest → a < s.MOLEN → fitsOutCapacity s.cfg s.MOLEN = true →
      step s = .next { s with host := rest, reply := .read (.bits8 (moByte s a)) }) ∧
    (s.host = .rd .MI :: rest → fitsCapacity s.cfg s.MILEN = true →
      ∃ bs, step s = .next { s with host := rest, reply := .read (.bytes bs) } ∧ bs.length = s.MILEN ∧
        ∀ a < s.MILEN, bs.getD a 0 = miByte s a) ∧
    (s.host = .rd .MO :: rest → fitsOutCapacity s.cfg s.MOLEN = true →
      ∃ bs, step s = .next { s with host := rest, reply := .read (.bytes bs) } ∧ bs.length = s.MOLEN ∧
        ∀ a < s.MOLEN, bs.getD a 0 = moByte s a)

/-- 10_state.md R19, 93_implementation_defined.md U5 (log 9): `CMD` has no read port, so that a read is refused, which is
the model's choice. -/
def Obligations.CommandRegisterReadIsRefused : Prop :=
  ∀ (s : State) (rest : List HostAction), s.host = .rd .CMD :: rest → step s = .refused .commandRegisterRead

/-! ## Primitives, codecs, untyped functions -/

/-- 40_bitvector.md R66: `bits'{i} = bits{((i - 1 + n) mod L) + 1}`. -/
def Obligations.RotationMovesEveryPosition : Prop :=
  ∀ (L : Nat) (b : BitVec L) (n : Fin L) (i : Nat), 1 ≤ i → i ≤ L →
    bitAt (rotl b n) i = bitAt b ((i - 1 + n) % L + 1)

/-- 40_bitvector.md R67, 60_exceptions.md R151: XOR of sequences of one length is bitwise; unequal lengths are `E_LEN`. -/
def Obligations.UntypedXorChecksLengths : Prop :=
  ∀ a b : Bits,
    (a.length = b.length → ∃ c, untypedXor a b = .ok c ∧ c.length = a.length ∧
      ∀ i < a.length, (c.getD i false).toNat = ((a.getD i false).toNat + (b.getD i false).toNat) % 2) ∧
    (a.length ≠ b.length → ∃ n, untypedXor a b = .error (.eLen .xor n))

/-- 44_des_block.md R115, R116, 60_exceptions.md R151, R158: any length but 64 is `E_LEN` of the function called, the
block's checked before the key's (the spec's decision D18; what is recorded: log 11), and with 64-bit arguments each of the
two functions gives 64 bits that the other takes back. -/
def Obligations.UntypedDesChecksLengths : Prop :=
  ∀ b key : Bits,
    (b.length ≠ 64 → untypedDesEncryptBlock b key = .error (.eLen .desEncryptBlock b.length) ∧
      untypedDesDecryptBlock b key = .error (.eLen .desDecryptBlock b.length)) ∧
    (b.length = 64 → key.length ≠ 64 → untypedDesEncryptBlock b key = .error (.eLen .desEncryptBlock key.length) ∧
      untypedDesDecryptBlock b key = .error (.eLen .desDecryptBlock key.length)) ∧
    (b.length = 64 → key.length = 64 →
      (∃ c, untypedDesEncryptBlock b key = .ok c ∧ c.length = 64 ∧ untypedDesDecryptBlock c key = .ok b) ∧
      ∃ c, untypedDesDecryptBlock b key = .ok c ∧ c.length = 64 ∧ untypedDesEncryptBlock c key = .ok b)

/-- 40_bitvector.md R73: digit `i` is the lowercase digit of bits `4i + 1` to `4i + 4`, and hexadecimal digits survive the
two conversions in lower case. -/
def Obligations.HexDigitsRoundTripLowercase : Prop :=
  (∀ b : Bits, b.length % 4 = 0 → ∃ h, bitsToHex b = some h ∧ 4 * h.length = b.length ∧ hexToBits h = some b ∧
    ∀ i < h.length, h.getD i 0 = lowercaseDigits.getD (8 * (b.getD (4 * i) false).toNat + 4 * (b.getD (4 * i + 1) false).toNat
      + 2 * (b.getD (4 * i + 2) false).toNat + (b.getD (4 * i + 3) false).toNat) 0) ∧
  ∀ h : Text, (∀ c ∈ h, (48 ≤ c ∧ c ≤ 57) ∨ (65 ≤ c ∧ c ≤ 70) ∨ (97 ≤ c ∧ c ≤ 102)) →
    ∃ b, hexToBits h = some b ∧ bitsToHex b = some (h.map fun c => if c ≤ 70 ∧ 65 ≤ c then c + 32 else c)

/-- 40_bitvector.md R70, R71: text with every code point at most 255 converts and converts back; any other text is
`E_CODEPOINT`. -/
def Obligations.TextConversionRejectsWideCharacters : Prop :=
  ∀ t : Text,
    (allSingleByte t → ∃ b, textToBits t = .ok b ∧ b.length = 8 * t.length ∧ bitsToText b = t) ∧
    (¬ allSingleByte t → ∃ c, textToBits t = .error (.eCodepoint c) ∧ c ∈ t ∧ 255 < c)

/-- 45_tdes_ecb.md R137: the order of `unpad` and `sanitize` cannot be observed. -/
def Obligations.SanitizeHidesUnpad : Prop :=
  ∀ out : List Byte, sanitize (unpad out) = sanitize out ∧ unpad (sanitize out) = sanitize out

/-! ## The adapter -/

/-- 45_tdes_ecb.md R132, R135: ENCRYPT encrypts the padded or null-filled plaintext under the three normalised keys, block
by block, into `MO`, and returns what the command left. A plaintext longer than the capacity is `E_CAP` (log 13). -/
def Obligations.EncryptReportsTheCommand : Prop :=
  ∀ (plaintext key1 key2 key3 : Text) (p : Bool) (s : State),
    allSingleByte plaintext → allSingleByte (key1.take 8) → allSingleByte (key2.take 8) → allSingleByte (key3.take 8) →
    (fitsCapacity s.cfg plaintext.length = true →
      ∃ t r, encrypt plaintext key1 key2 key3 p s = .next (t, .ok r) ∧
        t.MOLEN = preparedLength p plaintext.length ∧
        (∀ i, 8 * i < t.MOLEN → blockAt (moByte t) i = tripleEncryptBlock (blockAt (preparedCharacter p plaintext) i)
          (keyOfCharacters key1) (keyOfCharacters key2) (keyOfCharacters key3)) ∧
        r.cipherText = (messageOut t).map BitVec.toNat ∧ bitsToHex (bytesToBits (messageOut t)) = some r.cipherHex ∧
        r.cipherHex.length = 2 * t.MOLEN ∧
        (r.paddingWasNeeded = true ↔ plaintext.length % 8 ≠ 0) ∧ (r.wasBlockAligned = true ↔ plaintext.length % 8 = 0) ∧
        r.cipherHexSingleBlockUnpadded = if p = true ∧ plaintext.length = 8 then some (r.cipherHex.take 16) else none) ∧
    (fitsCapacity s.cfg plaintext.length = false →
      ∃ t, encrypt plaintext key1 key2 key3 p s = .next (t, .error (.eCap plaintext.length)))

/-- 60_exceptions.md R152: `E_CODEPOINT` carries the first offending character, the strings being examined in the order
`key1`, `key2`, `key3`, `plaintext` and a key after normalisation; the engine is as it was (log 13). -/
def Obligations.EncryptRejectsFirstWideCharacter : Prop :=
  ∀ (plaintext key1 key2 key3 : Text) (p : Bool) (s : State) (c : CodePoint),
    (key1.take 8 ++ key2.take 8 ++ key3.take 8 ++ plaintext).find? (fun x => 255 < x) = some c →
    encrypt plaintext key1 key2 key3 p s = .next (s, .error (.eCodepoint c))

/-- 60_exceptions.md R152, R155 (a): no hexadecimal argument is an error of its own, whatever characters it has; only its
length beyond the capacity (`E_CAP`, log 13) and a wide character in a key are. (That the state is unchanged after
`E_CODEPOINT` is the model's choice, log 13.) -/
def Obligations.DecryptAcceptsAnyHex : Prop :=
  ∀ (hex key1 key2 key3 : Text) (p : Bool) (s : State),
    (allSingleByte (key1.take 8) → allSingleByte (key2.take 8) → allSingleByte (key3.take 8) →
      (fitsCapacity s.cfg ((hexDigitCount hex + 1) / 2) = true →
        ∃ t r, decrypt hex key1 key2 key3 p s = .next (t, .ok r)) ∧
      (fitsCapacity s.cfg ((hexDigitCount hex + 1) / 2) = false →
        ∃ t, decrypt hex key1 key2 key3 p s = .next (t, .error (.eCap ((hexDigitCount hex + 1) / 2))))) ∧
    ∀ c, (key1.take 8 ++ key2.take 8 ++ key3.take 8).find? (fun x => 255 < x) = some c →
      decrypt hex key1 key2 key3 p s = .next (s, .error (.eCodepoint c))

/-- 45_tdes_ecb.md R136 to R138: DECRYPT of ENCRYPT's `cipherHex` is the plaintext less the characters the filter drops,
whatever the two padding flags are; so it is the plaintext exactly when every character passes the filter. The premise is
that the ciphertext, which DECRYPT writes back, fits the buffer (log 2). -/
def Obligations.DecryptUndoesEncryptUpToFilter : Prop :=
  ∀ (plaintext key1 key2 key3 : Text) (p p' : Bool) (s : State),
    fitsCapacity s.cfg (preparedLength p plaintext.length) = true →
    allSingleByte plaintext → allSingleByte (key1.take 8) → allSingleByte (key2.take 8) → allSingleByte (key3.take 8) →
    ∃ t r u, encrypt plaintext key1 key2 key3 p s = .next (t, .ok r) ∧
      decrypt r.cipherHex key1 key2 key3 p' t = .next (u, .ok (plaintext.filter keepsCharacter))

/-! ## The sequencer -/

/-- 10_state.md R14: the sequencer takes `RND` fastest and then `STAGE`, in the order the spec fixes, and is idle after the
last round. That the round-by-round machine stands beside the step, and that `BIDX` rises one by one where R14 allows any
order, are the model's choices (log 10). -/
def Obligations.SequencerVisitsRoundsInOrder : Prop :=
  ∀ (d : Direction) (k1 k2 k3 : Key64) (blocks : List Block64),
    (∀ m < 48 * blocks.length, ((Engine.start blocks).run d k1 k2 k3 m).seq
      = some ⟨m / 48, stageOf (m % 48 / 16), Fin.ofNat 16 m⟩) ∧
    ((Engine.start blocks).run d k1 k2 k3 (48 * blocks.length)).seq = none

/-- 10_state.md R14, R17: the sequencer, run to idle over the blocks of a message, computes in block order what the
functions of 45_tdes_ecb.md R120 and R121 give for each block. (The machine stands beside the step by the model's choice,
log 10.) -/
def Obligations.SequencerComputesTheFunctions : Prop :=
  ∀ (k1 k2 k3 : Key64) (blocks : List Block64),
    ((Engine.start blocks).run .ede k1 k2 k3 (48 * blocks.length)).out
      = blocks.map (fun b => tripleEncryptBlock b k1 k2 k3) ∧
    ((Engine.start blocks).run .ded k1 k2 k3 (48 * blocks.length)).out
      = blocks.map (fun b => tripleDecryptBlock b k1 k2 k3)
end

