-- ==== Sys2Proof/Laws/Bits.lean ====
section
/-! SUPPORT. The laws of the bit-level primitives: what `ofBits`, `toBits`, `permute` and `rotl` are at each position,
and that the engine's block codec is the byte codec of 40_bitvector.md. -/

namespace Sys2Proof.Machine

theorem val_foldl (b : Bits) (acc : Nat) :
    b.foldl (fun acc x => 2 * acc + x.toNat) acc = acc * 2 ^ b.length + val b := by
  induction b generalizing acc with
  | nil => simp [val]
  | cons x b ih =>
    have hv : val (x :: b) = (2 * 0 + x.toNat) * 2 ^ b.length + val b := ih (2 * 0 + x.toNat)
    rw [List.foldl_cons, ih, hv, List.length_cons, Nat.pow_succ]
    ring

@[simp] theorem val_nil : val [] = 0 := rfl

theorem val_cons (x : Bool) (b : Bits) : val (x :: b) = x.toNat * 2 ^ b.length + val b := by
  rw [val, List.foldl_cons, val_foldl]
  simp

theorem val_lt (b : Bits) : val b < 2 ^ b.length := by
  induction b with
  | nil => simp
  | cons x b ih =>
    rw [val_cons, List.length_cons, Nat.pow_succ]
    have := Bool.toNat_le x
    nlinarith

/-- `val` is the number of the bit vector with those bits, leftmost first. -/
theorem toNat_ofBoolListBE (b : Bits) : (BitVec.ofBoolListBE b).toNat = val b := by
  induction b with
  | nil => rfl
  | cons x b ih =>
    rw [BitVec.ofBoolListBE, BitVec.toNat_cons, ih, val_cons, Nat.shiftLeft_eq, Nat.mul_comm,
      ← Nat.two_pow_add_eq_or_of_lt (val_lt b)]

/-- Position `i + 1` of the vector of a sequence is element `i` of the sequence. -/
theorem getMsbD_ofBits {n : Nat} {b : Bits} (h : b.length = n) (i : Nat) :
    (ofBits n b).getMsbD i = b.getD i false := by
  subst h
  have : ofBits b.length b = BitVec.ofBoolListBE b := by
    apply BitVec.eq_of_toNat_eq
    rw [ofBits, BitVec.toNat_ofNat, Nat.mod_eq_of_lt (val_lt b), toNat_ofBoolListBE]
  rw [this, BitVec.getMsbD_ofBoolListBE]

/-- R65: output bit `i` of a permutation is the input bit the table's entry `i` names. -/
theorem bitAt_permute {L m : Nat} (b : BitVec L) (T : PermTable L m) {i : Nat} (h : i < m) :
    bitAt (permute b T) (i + 1) = bitAt b (T.entries.getD i 0) := by
  have hl : (T.entries.map (bitAt b)).length = m := by rw [List.length_map, T.length_eq]
  have hi : i < T.entries.length := by rw [T.length_eq]; exact h
  rw [bitAt, Nat.add_sub_cancel, permute, getMsbD_ofBits hl]
  simp [List.getD, hi]

/-- Two vectors with the same bit at every position are equal. -/
theorem eq_of_bitAt {n : Nat} {a b : BitVec n} (h : ∀ i < n, bitAt a (i + 1) = bitAt b (i + 1)) : a = b := by
  apply BitVec.eq_of_getMsbD_eq
  intro i hi
  simpa [bitAt] using h i hi

@[simp] theorem toBits_length {n : Nat} (b : BitVec n) : (toBits b).length = n := by simp [toBits]

theorem toBits_getD {n : Nat} (b : BitVec n) (i : Nat) : (toBits b).getD i false = b.getMsbD i := by
  by_cases h : i < n
  · simp [toBits, bitAt, List.getD, h]
  · simp [toBits, List.getD, h, BitVec.getMsbD_of_ge b i (Nat.le_of_not_lt h)]

/-- `bits_n` of the sequence of a vector is the vector. -/
@[simp] theorem ofBits_toBits {n : Nat} (b : BitVec n) : ofBits n (toBits b) = b := by
  apply BitVec.eq_of_getMsbD_eq
  intro i _
  rw [getMsbD_ofBits (toBits_length b), toBits_getD]

/-- The sequence of the vector of a sequence is the sequence. -/
theorem toBits_ofBits {n : Nat} {b : Bits} (h : b.length = n) : toBits (ofBits n b) = b := by
  apply List.ext_getElem
  · simp [h]
  · intro i h1 h2
    have := toBits_getD (ofBits n b) i
    rw [getMsbD_ofBits h] at this
    simpa [List.getD, List.getElem?_eq_getElem h1, List.getElem?_eq_getElem h2] using this

theorem toBits_byte (b : Byte) :
    toBits b = [b.getMsbD 0, b.getMsbD 1, b.getMsbD 2, b.getMsbD 3, b.getMsbD 4, b.getMsbD 5, b.getMsbD 6, b.getMsbD 7] := rfl

/-- R69 undoes R68. -/
@[simp] theorem bitsToBytes_bytesToBits (bs : List Byte) : bitsToBytes (bytesToBits bs) = bs := by
  induction bs with
  | nil => rfl
  | cons b bs ih =>
    have : bytesToBits (b :: bs) = toBits b ++ bytesToBits bs := rfl
    rw [this, toBits_byte]
    simp only [List.cons_append, List.nil_append, bitsToBytes, ih]
    rw [← toBits_byte, ofBits_toBits]

/-- A byte of a concatenation: appending `b` on the right puts `a`'s bytes above it. -/
theorem blockToBytes_bytesToBlock (b1 b2 b3 b4 b5 b6 b7 b8 : Byte) :
    blockToBytes (bytesToBlock b1 b2 b3 b4 b5 b6 b7 b8) = [b1, b2, b3, b4, b5, b6, b7, b8] := by
  unfold blockToBytes bytesToBlock
  simp only [List.cons.injEq, and_true]
  refine ⟨?_, ?_, ?_, ?_, ?_, ?_, ?_, ?_⟩ <;>
  · apply BitVec.eq_of_getLsbD_eq
    intro i hi
    simp only [BitVec.getLsbD_extractLsb', BitVec.getLsbD_append]
    interval_cases i <;> simp

theorem bytesToBlock_blockToBytes (b : Block64) :
    bytesToBlock (b.extractLsb' 56 8) (b.extractLsb' 48 8) (b.extractLsb' 40 8) (b.extractLsb' 32 8)
      (b.extractLsb' 24 8) (b.extractLsb' 16 8) (b.extractLsb' 8 8) (b.extractLsb' 0 8) = b := by
  unfold bytesToBlock
  apply BitVec.eq_of_getLsbD_eq
  intro i hi
  simp only [BitVec.getLsbD_extractLsb', BitVec.getLsbD_append]
  interval_cases i <;> simp

/-- The halves of a block make the block. -/
theorem leftHalf_append_rightHalf (b : Block64) : leftHalf b ++ rightHalf b = b := by
  apply BitVec.eq_of_getLsbD_eq
  intro i hi
  simp only [leftHalf, rightHalf, BitVec.getLsbD_extractLsb', BitVec.getLsbD_append]
  by_cases h : i < 32
  · simp [h]
  · have : i - 32 < 32 := by omega
    simp [h, this]
    congr 1
    omega

@[simp] theorem leftHalf_append (l r : Half32) : leftHalf (l ++ r) = l := by
  apply BitVec.eq_of_getLsbD_eq
  intro i hi
  have := BitVec.getLsbD_append (x := l) (y := r) (i := 32 + i)
  simp [leftHalf, hi] at *
  exact this

@[simp] theorem rightHalf_append (l r : Half32) : rightHalf (l ++ r) = r := by
  apply BitVec.eq_of_getLsbD_eq
  intro i hi
  have := BitVec.getLsbD_append (x := l) (y := r) (i := i)
  simp [rightHalf, hi] at *
  exact this

theorem toBits_getElem {n : Nat} (b : BitVec n) (i : Nat) (h : i < (toBits b).length) : (toBits b)[i] = b.getMsbD i := by
  have := toBits_getD b i
  rwa [List.getD, List.getElem?_eq_getElem h] at this

/-- The sequence of a concatenation is the concatenation of the sequences. -/
theorem toBits_append {n m : Nat} (a : BitVec n) (b : BitVec m) : toBits (a ++ b) = toBits a ++ toBits b := by
  apply List.ext_getElem
  · simp
  · intro i h1 h2
    rw [toBits_getElem, BitVec.getMsbD_append, List.getElem_append]
    by_cases h : i < n
    · have h' : ¬ n ≤ i := by omega
      simp [h, h', toBits_getElem]
    · have h' : n ≤ i := by omega
      simp [h, h', toBits_getElem]

/-- The engine's block of eight bytes has the bits of the byte codec (40_bitvector.md R68, 20_memory.md R32). -/
theorem toBits_bytesToBlock (b1 b2 b3 b4 b5 b6 b7 b8 : Byte) :
    toBits (bytesToBlock b1 b2 b3 b4 b5 b6 b7 b8) = bytesToBits [b1, b2, b3, b4, b5, b6, b7, b8] := by
  simp only [bytesToBlock, toBits_append, bytesToBits, List.flatMap_cons, List.flatMap_nil, List.append_assoc, List.append_nil]

@[simp] theorem bytesToBits_length (bs : List Byte) : (bytesToBits bs).length = 8 * bs.length := by
  induction bs with
  | nil => rfl
  | cons b bs ih =>
    have : bytesToBits (b :: bs) = toBits b ++ bytesToBits bs := rfl
    rw [this, List.length_append, ih, toBits_length, List.length_cons]
    omega

end Sys2Proof.Machine
end

