-- ==== Sys2Proof/Laws/Memory.lean ====
section
/-! SUPPORT. The laws of the byte spaces: read after write, canonical form kept by every operation, and what the space
of a list of bytes holds. -/

namespace Sys2Proof.Machine

@[simp] theorem Memory.read?_nil (a : Nat) : Memory.read? [] a = none := rfl

theorem Memory.read?_cons (p : Host.Cell) (m : Memory) (a : Nat) :
    Memory.read? (p :: m) a = if p.1 = a then some p.2 else Memory.read? m a := rfl

/-- A read after a write to the same address gives the value written. -/
@[simp] theorem Memory.read?_write_same (m : Memory) (a : Nat) (v : Byte) : Memory.read? (Memory.write m a v) a = some v := by
  induction m with
  | nil => simp [Memory.write, Memory.read?_cons]
  | cons p m ih =>
    unfold Memory.write
    split
    · simp [Memory.read?_cons]
    · split
      · simp [Memory.read?_cons]
      · rename_i h
        simp [Memory.read?_cons, Ne.symm h, ih]

/-- A write leaves every other address alone. -/
theorem Memory.read?_write_other (m : Memory) {a a' : Nat} (v : Byte) (h : a' ≠ a) :
    Memory.read? (Memory.write m a v) a' = Memory.read? m a' := by
  induction m with
  | nil => simp [Memory.write, Memory.read?_cons, Ne.symm h]
  | cons p m ih =>
    unfold Memory.write
    split
    · simp [Memory.read?_cons, Ne.symm h]
    · split
      · rename_i h'
        simp [Memory.read?_cons, Ne.symm h, ← h']
      · simp [Memory.read?_cons, ih]

/-- The canonical form, by its tail: every later address is greater. -/
theorem Memory.wf_cons (p : Host.Cell) (m : Memory) :
    Memory.wf (p :: m) = true ↔ (∀ q ∈ m, p.1 < q.1) ∧ Memory.wf m = true := by
  induction m generalizing p with
  | nil => simp [Memory.wf]
  | cons q m ih =>
    have hunf : Memory.wf (p :: q :: m) = (decide (p.1 < q.1) && Memory.wf (q :: m)) := rfl
    rw [hunf, Bool.and_eq_true, decide_eq_true_eq, ih q]
    constructor
    · rintro ⟨hpq, hq, hm⟩
      refine ⟨?_, hq, hm⟩
      intro r hr
      rcases List.mem_cons.1 hr with rfl | hr
      · exact hpq
      · exact Nat.lt_trans hpq (hq r hr)
    · rintro ⟨hp, hq, hm⟩
      exact ⟨hp q (by simp), hq, hm⟩

/-- What a write lists: the address written, or an address listed before. -/
theorem Memory.mem_write {m : Memory} {a : Nat} {v : Byte} {q : Host.Cell} (h : q ∈ Memory.write m a v) :
    q.1 = a ∨ q ∈ m := by
  induction m with
  | nil => simp [Memory.write] at h; simp [h]
  | cons p m ih =>
    unfold Memory.write at h
    split at h
    · simp only [List.mem_cons] at h
      rcases h with rfl | h | h
      · exact .inl rfl
      · exact .inr (List.mem_cons.2 (.inl h))
      · exact .inr (List.mem_cons.2 (.inr h))
    · split at h
      · simp only [List.mem_cons] at h
        rcases h with rfl | h
        · exact .inl rfl
        · exact .inr (List.mem_cons_of_mem _ h)
      · simp only [List.mem_cons] at h
        rcases h with h | h
        · exact .inr (List.mem_cons.2 (.inl h))
        · exact (ih h).imp_right (List.mem_cons_of_mem _)

/-- A write keeps the canonical form. -/
theorem Memory.write_wf {m : Memory} (a : Nat) (v : Byte) (h : Memory.wf m = true) :
    Memory.wf (Memory.write m a v) = true := by
  induction m with
  | nil => rfl
  | cons p m ih =>
    obtain ⟨hp, hm⟩ := (Memory.wf_cons p m).1 h
    unfold Memory.write
    split
    · rename_i hlt
      rw [Memory.wf_cons]
      refine ⟨?_, h⟩
      intro q hq
      rcases List.mem_cons.1 hq with rfl | hq
      · exact hlt
      · exact Nat.lt_trans hlt (hp q hq)
    · split
      · rename_i hlt heq
        rw [Memory.wf_cons]
        exact ⟨fun q hq => heq ▸ hp q hq, hm⟩
      · rename_i hlt hne
        rw [Memory.wf_cons]
        refine ⟨fun q hq => ?_, ih hm⟩
        rcases Memory.mem_write hq with hq | hq
        · show p.1 < q.1
          omega
        · exact hp q hq

/-- A write of bytes keeps the canonical form. -/
theorem Memory.writeBytes_wf {m : Memory} (base : Nat) (bs : List Byte) (h : Memory.wf m = true) :
    Memory.wf (Memory.writeBytes m base bs) = true := by
  induction bs generalizing m base with
  | nil => exact h
  | cons b bs ih => exact ih (base + 1) (Memory.write_wf base b h)

/-- What a write of bytes lists: an address it wrote, or an address listed before. -/
theorem Memory.mem_writeBytes {m : Memory} {base : Nat} {bs : List Byte} {q : Host.Cell}
    (h : q ∈ Memory.writeBytes m base bs) : (base ≤ q.1 ∧ q.1 < base + bs.length) ∨ q ∈ m := by
  induction bs generalizing m base with
  | nil => exact .inr h
  | cons b bs ih =>
    rcases ih h with ⟨h1, h2⟩ | h
    · exact .inl ⟨by omega, by simp only [List.length_cons]; omega⟩
    · rcases Memory.mem_write h with h | h
      · exact .inl ⟨by omega, by simp only [List.length_cons]; omega⟩
      · exact .inr h

/-- A write of bytes leaves every address outside them alone. -/
theorem Memory.read?_writeBytes_other (m : Memory) (base : Nat) (bs : List Byte) (a : Nat)
    (h : a < base ∨ base + bs.length ≤ a) : Memory.read? (Memory.writeBytes m base bs) a = Memory.read? m a := by
  induction bs generalizing m base with
  | nil => rfl
  | cons b bs ih =>
    simp only [List.length_cons] at h
    rw [Memory.writeBytes, ih _ _ (by omega), Memory.read?_write_other _ _ (by omega)]

/-- A write of bytes puts byte `i` of the list at address `base + i`. -/
theorem Memory.read?_writeBytes_same (m : Memory) (base : Nat) (bs : List Byte) (i : Nat) (h : i < bs.length) :
    Memory.read? (Memory.writeBytes m base bs) (base + i) = some bs[i] := by
  induction bs generalizing m base i with
  | nil => simp at h
  | cons b bs ih =>
    cases i with
    | zero =>
      rw [Memory.writeBytes, Memory.read?_writeBytes_other _ _ _ _ (.inl (by omega))]
      simp
    | succ i =>
      have := ih (Memory.write m base b) (base + 1) i (by simpa using h)
      rw [Nat.add_assoc, Nat.add_comm 1 i] at this
      simpa [Memory.writeBytes] using this

/-- The two together, from address 0. -/
theorem Memory.read?_writeBytes (m : Memory) (bs : List Byte) (a : Nat) :
    Memory.read? (Memory.writeBytes m 0 bs) a = if h : a < bs.length then some bs[a] else Memory.read? m a := by
  split
  · rename_i h
    simpa using Memory.read?_writeBytes_same m 0 bs a h
  · exact Memory.read?_writeBytes_other m 0 bs a (.inr (by omega))

/-- Reset's spaces are in canonical form. -/
theorem Memory.reset_wf : Memory.wf State.reset.MI = true ∧ Memory.wf State.reset.MO = true := ⟨rfl, rfl⟩

/-- A message operation's output reads back as written. -/
theorem messageOut_writeMessageOut (s : State) (bs : List Byte) : messageOut (s.writeMessageOut bs) = bs := by
  apply List.ext_getElem?
  intro i
  by_cases h : i < bs.length
  · simp [messageOut, State.writeMessageOut, moByte, Memory.read?_writeBytes, h]
  · simp [messageOut, State.writeMessageOut, h]

/-- All the bytes of a `WRM` that fits are held. -/
theorem heldBytes_of_fits {cfg : Config} {bs : List Byte} (h : fitsCapacity cfg bs.length = true) :
    heldBytes cfg bs = bs := by
  unfold fitsCapacity at h
  unfold heldBytes
  split at h
  · simp_all
  · simp only [decide_eq_true_eq] at h
    simp [List.take_of_length_le h]

/-- A message that fits, written by `WRM`, is the message an operation reads. -/
theorem messageOperand_writeMessageIn (s : State) (bs : List Byte) (h : fitsCapacity s.cfg bs.length = true) :
    messageOperand (s.writeMessageIn bs) = bs := by
  apply List.ext_getElem?
  intro i
  by_cases hi : i < bs.length
  · simp [messageOperand, miByte, State.writeMessageIn, heldBytes_of_fits h, Memory.read?_writeBytes, hi]
  · simp [messageOperand, State.writeMessageIn, hi]

/-- A byte of `MO` after a message operation's output: a byte of the output, or as before. -/
theorem moByte_writeMessageOut (s : State) (bs : List Byte) (a : Nat) :
    moByte (s.writeMessageOut bs) a = if a < bs.length then bs.getD a 0 else moByte s a := by
  by_cases h : a < bs.length
  · simp [moByte, State.writeMessageOut, Memory.read?_writeBytes, h, List.getD]
  · simp [moByte, State.writeMessageOut, Memory.read?_writeBytes, h]

/-- A byte of `MI` after a `WRM` that fits: a byte of the message, or as before. -/
theorem miByte_writeMessageIn (s : State) (bs : List Byte) (a : Nat) (hf : fitsCapacity s.cfg bs.length = true) :
    miByte (s.writeMessageIn bs) a = if a < bs.length then bs.getD a 0 else miByte s a := by
  by_cases h : a < bs.length
  · simp [miByte, State.writeMessageIn, heldBytes_of_fits hf, Memory.read?_writeBytes, h, List.getD]
  · simp [miByte, State.writeMessageIn, heldBytes_of_fits hf, Memory.read?_writeBytes, h]

/-- The bytes of a `WRM` that are held: those whose address the buffer has (log 4). -/
theorem heldBytes_getElem? (cfg : Config) (bs : List Byte) (a : Nat) :
    (heldBytes cfg bs)[a]? = if fitsCapacity cfg (a + 1) = true then bs[a]? else none := by
  unfold heldBytes fitsCapacity
  split
  · simp
  · simp only [List.getElem?_take, decide_eq_true_eq]
    congr 1

/-- A byte of `MI` after any `WRM`: a byte of the message where the buffer has the address, or as before. -/
theorem miByte_writeMessageIn_any (s : State) (bs : List Byte) (a : Nat) :
    miByte (s.writeMessageIn bs) a
      = if a < bs.length ∧ fitsCapacity s.cfg (a + 1) = true then bs.getD a 0 else miByte s a := by
  have hg := heldBytes_getElem? s.cfg bs a
  unfold miByte State.writeMessageIn
  simp only [Memory.read?_writeBytes]
  by_cases h : a < bs.length ∧ fitsCapacity s.cfg (a + 1) = true
  · rw [if_pos h.2, List.getElem?_eq_getElem h.1] at hg
    obtain ⟨hl, he⟩ := List.getElem?_eq_some_iff.1 hg
    simp [h, hl, he, List.getD]
  · have hl : ¬ a < (heldBytes s.cfg bs).length := by
      intro hl
      rw [List.getElem?_eq_getElem hl] at hg
      split at hg
      · rename_i hf
        exact h ⟨(List.getElem?_eq_some_iff.1 hg.symm).1, hf⟩
      · exact absurd hg (by simp)
    rw [dif_neg hl, if_neg h]

@[simp] theorem messageOperand_length (s : State) : (messageOperand s).length = s.MILEN := by simp [messageOperand]

@[simp] theorem messageOut_length (s : State) : (messageOut s).length = s.MOLEN := by simp [messageOut]

/-- The message an operation reads, byte by byte. -/
theorem messageOperand_getD (s : State) (a : Nat) (h : a < s.MILEN) : (messageOperand s).getD a 0 = miByte s a := by
  simp [messageOperand, List.getD, h]

/-- The message the host reads, byte by byte. -/
theorem messageOut_getD (s : State) (a : Nat) (h : a < s.MOLEN) : (messageOut s).getD a 0 = moByte s a := by
  simp [messageOut, List.getD, h]

end Sys2Proof.Machine
end

