-- ==== Sys2Proof/Laws/Message.lean ====
section
/-! SUPPORT. The laws of the message driver: lengths, and that blocks and bytes determine each other. -/

namespace Sys2Proof.Machine

@[simp] theorem blockToBytes_length (b : Block64) : (blockToBytes b).length = 8 := rfl

@[simp] theorem bytesOf_nil : bytesOf [] = [] := rfl

theorem bytesOf_cons (b : Block64) (bs : List Block64) : bytesOf (b :: bs) = blockToBytes b ++ bytesOf bs := rfl

@[simp] theorem bytesOf_length (bs : List Block64) : (bytesOf bs).length = 8 * bs.length := by
  induction bs with
  | nil => rfl
  | cons b bs ih => rw [bytesOf_cons, List.length_append, ih, blockToBytes_length, List.length_cons]; omega

@[simp] theorem blocksOf_length (data : List Byte) : (blocksOf data).length = data.length / 8 := by
  induction data using blocksOf.induct with
  | case1 b1 b2 b3 b4 b5 b6 b7 b8 rest ih => simp [blocksOf, ih]; omega
  | case2 data h =>
    rw [blocksOf]
    · match data, h with
      | [], _ | [_], _ | [_, _], _ | [_, _, _], _ | [_, _, _, _], _ | [_, _, _, _, _], _ | [_, _, _, _, _, _], _
      | [_, _, _, _, _, _, _], _ => simp
      | _ :: _ :: _ :: _ :: _ :: _ :: _ :: _ :: _, h => exact absurd rfl (h _ _ _ _ _ _ _ _ _)
    · exact h

/-- The blocks of the bytes of blocks are those blocks. -/
@[simp] theorem blocksOf_bytesOf (bs : List Block64) : blocksOf (bytesOf bs) = bs := by
  induction bs with
  | nil => rfl
  | cons b bs ih =>
    rw [bytesOf_cons, blockToBytes]
    simp only [List.cons_append, List.nil_append, blocksOf, ih, bytesToBlock_blockToBytes]

/-- The bytes of the blocks of block-aligned data are that data. -/
theorem bytesOf_blocksOf (data : List Byte) (h : data.length % 8 = 0) : bytesOf (blocksOf data) = data := by
  induction data using blocksOf.induct with
  | case1 b1 b2 b3 b4 b5 b6 b7 b8 rest ih =>
    have hr : rest.length % 8 = 0 := by simp only [List.length_cons] at h; omega
    rw [blocksOf, bytesOf_cons, blockToBytes_bytesToBlock, ih hr]
    rfl
  | case2 data hd =>
    match data, h, hd with
    | [], _, _ => rfl
    | [_], h, _ | [_, _], h, _ | [_, _, _], h, _ | [_, _, _, _], h, _ | [_, _, _, _, _], h, _ | [_, _, _, _, _, _], h, _
    | [_, _, _, _, _, _, _], h, _ => simp at h
    | _ :: _ :: _ :: _ :: _ :: _ :: _ :: _ :: _, _, hd => exact absurd rfl (hd _ _ _ _ _ _ _ _ _)

/-- Prepared data is a whole number of blocks (45_tdes_ecb.md R123). -/
theorem prepare_length_mod (msg : List Byte) (pad : Bool) : (prepare msg pad).length % 8 = 0 := by
  unfold prepare
  cases pad <;> simp
  · split <;> (try simp) <;> omega
  · omega

/-- Preparation adds at most one block. -/
theorem prepare_length_le (msg : List Byte) (pad : Bool) : (prepare msg pad).length ≤ 8 * (msg.length / 8 + 1) := by
  unfold prepare
  cases pad <;> simp
  · split <;> (try simp) <;> omega
  · omega

/-- A null fill never passes the next multiple of 8. -/
theorem prepare_false_length (msg : List Byte) : (prepare msg false).length = 8 * ((msg.length + 7) / 8) := by
  unfold prepare
  simp
  split <;> (try simp) <;> omega

/-- R123: block `i` of data is its bytes `8i` to `8i + 7`. -/
theorem blocksOf_getD (data : List Byte) (i : Nat) (h : 8 * i + 8 ≤ data.length) :
    (blocksOf data).getD i 0 = bytesToBlock (data.getD (8 * i) 0) (data.getD (8 * i + 1) 0) (data.getD (8 * i + 2) 0)
      (data.getD (8 * i + 3) 0) (data.getD (8 * i + 4) 0) (data.getD (8 * i + 5) 0) (data.getD (8 * i + 6) 0)
      (data.getD (8 * i + 7) 0) := by
  induction data using blocksOf.induct generalizing i with
  | case1 b1 b2 b3 b4 b5 b6 b7 b8 rest ih =>
    cases i with
    | zero => rfl
    | succ i =>
      have := ih i (by simp only [List.length_cons] at h; omega)
      rw [blocksOf, List.getD_cons_succ, this]
      rfl
  | case2 data hd =>
    match data, h, hd with
    | [], h, _ | [_], h, _ | [_, _], h, _ | [_, _, _], h, _ | [_, _, _, _], h, _ | [_, _, _, _, _], h, _
    | [_, _, _, _, _, _], h, _ | [_, _, _, _, _, _, _], h, _ => simp at h
    | _ :: _ :: _ :: _ :: _ :: _ :: _ :: _ :: _, _, hd => exact absurd rfl (hd _ _ _ _ _ _ _ _ _)

/-- A byte of prepared data: the message's, then the padding's or the null fill's (45_tdes_ecb.md R124, R125). -/
theorem prepare_getD (msg : List Byte) (pad : Bool) (j : Nat) (h : j < (prepare msg pad).length) :
    (prepare msg pad).getD j 0
      = if j < msg.length then msg.getD j 0 else if pad then BitVec.ofNat 8 (8 - msg.length % 8) else 0 := by
  by_cases hj : j < msg.length
  · unfold prepare
    cases pad <;> simp [List.getD, hj, List.getElem?_append]
    split <;> simp [List.getElem?_append, hj]
  · unfold prepare at *
    cases pad
    · simp only [Bool.false_eq_true, if_false] at h ⊢
      split at h
      · rename_i hr
        simp only [List.length_append, List.length_replicate] at h
        have hk : j - msg.length < 8 - msg.length % 8 := by omega
        simp [List.getD, hr, hj, List.getElem?_append, hk]
      · omega
    · simp only [if_true, List.length_append, List.length_replicate] at h ⊢
      have hk : j - msg.length < 8 - msg.length % 8 := by omega
      simp [List.getD, hj, List.getElem?_append, hk]

@[simp] theorem encryptBlocks_length (data : List Byte) (k1 k2 k3 : Key64) :
    (encryptBlocks data k1 k2 k3).length = 8 * (data.length / 8) := by
  simp [encryptBlocks]

@[simp] theorem decryptBlocks_length (data : List Byte) (k1 k2 k3 : Key64) :
    (decryptBlocks data k1 k2 k3).length = 8 * (data.length / 8) := by
  simp [decryptBlocks]

/-- Unpadding only removes bytes from the end. -/
theorem unpad_prefix (out : List Byte) : ∃ n, unpad out = out.take n := by
  unfold unpad
  split
  · exact ⟨out.length, by simp⟩
  · simp only
    split
    · exact ⟨_, rfl⟩
    · exact ⟨out.length, by simp⟩

theorem unpad_length_le (out : List Byte) : (unpad out).length ≤ out.length := by
  obtain ⟨n, h⟩ := unpad_prefix out
  rw [h, List.length_take]
  omega

/-- R129: the last `n` bytes are stripped when they all hold `n`, for an `n` of 1 to 8. -/
theorem unpad_of_padding (out : List Byte) (n : Nat) (h1 : 1 ≤ n) (h8 : n ≤ 8) (hn : n ≤ out.length)
    (h : ∀ j < n, (out.getD (out.length - 1 - j) 0).toNat = n) : unpad out = out.take (out.length - n) := by
  have hne : out ≠ [] := by rintro rfl; simp at hn; omega
  have hlast : out.getLast? = some (BitVec.ofNat 8 n) := by
    have h0 := h 0 (by omega)
    rw [List.getLast?_eq_getElem?]
    simp only [Nat.sub_zero, List.getD] at h0
    rw [List.getElem?_eq_getElem (by omega)] at h0 ⊢
    simp only [Option.getD_some] at h0
    congr 1; apply BitVec.eq_of_toNat_eq; simp [h0]; omega
  unfold unpad
  rw [hlast]
  have ht : (BitVec.ofNat 8 n).toNat = n := by simp; omega
  simp only [ht]
  rw [if_pos]
  refine ⟨h1, h8, hn, ?_⟩
  apply List.ext_getElem
  · simp; omega
  · intro i hi hi'
    simp at hi hi' ⊢
    have := h (n - 1 - i) (by omega)
    rw [show out.length - 1 - (n-1-i) = out.length - n + i by omega] at this
    simp only [List.getD] at this
    rw [List.getElem?_eq_getElem (by omega)] at this
    apply BitVec.eq_of_toNat_eq; simp at this ⊢; omega

/-- R129: unpadding changes nothing, or strips such bytes. -/
theorem unpad_cases (out : List Byte) : unpad out = out ∨ ∃ n, 1 ≤ n ∧ n ≤ 8 ∧ n ≤ out.length ∧
    (∀ j < n, (out.getD (out.length - 1 - j) 0).toNat = n) ∧ unpad out = out.take (out.length - n) := by
  unfold unpad
  split
  · exact .inl rfl
  · rename_i last hl
    simp only
    split
    · rename_i hc
      obtain ⟨h1, h8, hn, hd⟩ := hc
      refine .inr ⟨_, h1, h8, hn, ?_, rfl⟩
      intro j hj
      have := congrArg (fun l => l.getD (last.toNat - 1 - j) 0) hd
      simp only [List.getD, List.getElem?_drop] at this
      rw [show out.length - last.toNat + (last.toNat - 1 - j) = out.length - 1 - j by omega] at this
      simp only [List.getD]
      rw [this]
      simp
      rw [List.getElem?_replicate_of_lt (by omega)]
      rfl
    · exact .inl rfl

end Sys2Proof.Machine
end

