-- ==== Sys2Proof/Laws/PerInstr.lean ====
section
/-! SUPPORT. The statements made of every instruction as syntax, one lemma per constructor. -/

/-- Family `LegalWord`: the word of an instruction has legal fields (30_encoding.md R53), whatever its flag, and the
fields are read back from the word. -/
def Sys2Proof.Laws.LegalWord.Statement (i : Sys2Proof.Instr) : Prop :=
  i.wellFormed = true ∧ Sys2Proof.commandFields (Sys2Proof.encode i) = i.fields

namespace Sys2Proof.Laws.LegalWord

theorem subst : Statement .subst := ⟨by decide, by decide⟩
theorem ksched : Statement .ksched := ⟨by decide, by decide⟩
theorem ffunc : Statement .ffunc := ⟨by decide, by decide⟩
theorem round : Statement .round := ⟨by decide, by decide⟩
theorem desenc : Statement .desenc := ⟨by decide, by decide⟩
theorem desdec : Statement .desdec := ⟨by decide, by decide⟩
theorem tenc : Statement .tenc := ⟨by decide, by decide⟩
theorem tdec : Statement .tdec := ⟨by decide, by decide⟩
theorem menc (p : Bool) : Statement (.menc p) := ⟨by cases p <;> decide, by cases p <;> decide⟩
theorem mdec (p : Bool) : Statement (.mdec p) := ⟨by cases p <;> decide, by cases p <;> decide⟩

end Sys2Proof.Laws.LegalWord
end

