-- ==== Sys2Proof/Laws/State.lean ====
section
/-! SUPPORT. One lemma per field per update of State, each true by rfl (generated list, so that no later proof unfolds a
record update). -/

namespace Sys2Proof.Machine

@[simp] theorem State.writeK1_K1 (s : State) (v : Key64) : (s.writeK1 v).K1 = v := rfl
@[simp] theorem State.writeK1_K2 (s : State) (v : Key64) : (s.writeK1 v).K2 = s.K2 := rfl
@[simp] theorem State.writeK1_K3 (s : State) (v : Key64) : (s.writeK1 v).K3 = s.K3 := rfl
@[simp] theorem State.writeK1_DI (s : State) (v : Key64) : (s.writeK1 v).DI = s.DI := rfl
@[simp] theorem State.writeK1_X (s : State) (v : Key64) : (s.writeK1 v).X = s.X := rfl
@[simp] theorem State.writeK1_DO (s : State) (v : Key64) : (s.writeK1 v).DO = s.DO := rfl
@[simp] theorem State.writeK1_Y (s : State) (v : Key64) : (s.writeK1 v).Y = s.Y := rfl
@[simp] theorem State.writeK1_SK (s : State) (v : Key64) : (s.writeK1 v).SK = s.SK := rfl
@[simp] theorem State.writeK1_SB (s : State) (v : Key64) : (s.writeK1 v).SB = s.SB := rfl
@[simp] theorem State.writeK1_MI (s : State) (v : Key64) : (s.writeK1 v).MI = s.MI := rfl
@[simp] theorem State.writeK1_MILEN (s : State) (v : Key64) : (s.writeK1 v).MILEN = s.MILEN := rfl
@[simp] theorem State.writeK1_MO (s : State) (v : Key64) : (s.writeK1 v).MO = s.MO := rfl
@[simp] theorem State.writeK1_MOLEN (s : State) (v : Key64) : (s.writeK1 v).MOLEN = s.MOLEN := rfl
@[simp] theorem State.writeK1_STATUS (s : State) (v : Key64) : (s.writeK1 v).STATUS = s.STATUS := rfl
@[simp] theorem State.writeK1_SEQ (s : State) (v : Key64) : (s.writeK1 v).SEQ = s.SEQ := rfl
@[simp] theorem State.writeK1_cfg (s : State) (v : Key64) : (s.writeK1 v).cfg = s.cfg := rfl
@[simp] theorem State.writeK1_host (s : State) (v : Key64) : (s.writeK1 v).host = s.host := rfl
@[simp] theorem State.writeK1_reply (s : State) (v : Key64) : (s.writeK1 v).reply = s.reply := rfl
@[simp] theorem State.writeK1_powerUp (s : State) (v : Key64) : (s.writeK1 v).powerUp = s.powerUp := rfl
@[simp] theorem State.writeK1_draw (s : State) (v : Key64) : (s.writeK1 v).draw = s.draw := rfl

@[simp] theorem State.writeK2_K1 (s : State) (v : Key64) : (s.writeK2 v).K1 = s.K1 := rfl
@[simp] theorem State.writeK2_K2 (s : State) (v : Key64) : (s.writeK2 v).K2 = v := rfl
@[simp] theorem State.writeK2_K3 (s : State) (v : Key64) : (s.writeK2 v).K3 = s.K3 := rfl
@[simp] theorem State.writeK2_DI (s : State) (v : Key64) : (s.writeK2 v).DI = s.DI := rfl
@[simp] theorem State.writeK2_X (s : State) (v : Key64) : (s.writeK2 v).X = s.X := rfl
@[simp] theorem State.writeK2_DO (s : State) (v : Key64) : (s.writeK2 v).DO = s.DO := rfl
@[simp] theorem State.writeK2_Y (s : State) (v : Key64) : (s.writeK2 v).Y = s.Y := rfl
@[simp] theorem State.writeK2_SK (s : State) (v : Key64) : (s.writeK2 v).SK = s.SK := rfl
@[simp] theorem State.writeK2_SB (s : State) (v : Key64) : (s.writeK2 v).SB = s.SB := rfl
@[simp] theorem State.writeK2_MI (s : State) (v : Key64) : (s.writeK2 v).MI = s.MI := rfl
@[simp] theorem State.writeK2_MILEN (s : State) (v : Key64) : (s.writeK2 v).MILEN = s.MILEN := rfl
@[simp] theorem State.writeK2_MO (s : State) (v : Key64) : (s.writeK2 v).MO = s.MO := rfl
@[simp] theorem State.writeK2_MOLEN (s : State) (v : Key64) : (s.writeK2 v).MOLEN = s.MOLEN := rfl
@[simp] theorem State.writeK2_STATUS (s : State) (v : Key64) : (s.writeK2 v).STATUS = s.STATUS := rfl
@[simp] theorem State.writeK2_SEQ (s : State) (v : Key64) : (s.writeK2 v).SEQ = s.SEQ := rfl
@[simp] theorem State.writeK2_cfg (s : State) (v : Key64) : (s.writeK2 v).cfg = s.cfg := rfl
@[simp] theorem State.writeK2_host (s : State) (v : Key64) : (s.writeK2 v).host = s.host := rfl
@[simp] theorem State.writeK2_reply (s : State) (v : Key64) : (s.writeK2 v).reply = s.reply := rfl
@[simp] theorem State.writeK2_powerUp (s : State) (v : Key64) : (s.writeK2 v).powerUp = s.powerUp := rfl
@[simp] theorem State.writeK2_draw (s : State) (v : Key64) : (s.writeK2 v).draw = s.draw := rfl

@[simp] theorem State.writeK3_K1 (s : State) (v : Key64) : (s.writeK3 v).K1 = s.K1 := rfl
@[simp] theorem State.writeK3_K2 (s : State) (v : Key64) : (s.writeK3 v).K2 = s.K2 := rfl
@[simp] theorem State.writeK3_K3 (s : State) (v : Key64) : (s.writeK3 v).K3 = v := rfl
@[simp] theorem State.writeK3_DI (s : State) (v : Key64) : (s.writeK3 v).DI = s.DI := rfl
@[simp] theorem State.writeK3_X (s : State) (v : Key64) : (s.writeK3 v).X = s.X := rfl
@[simp] theorem State.writeK3_DO (s : State) (v : Key64) : (s.writeK3 v).DO = s.DO := rfl
@[simp] theorem State.writeK3_Y (s : State) (v : Key64) : (s.writeK3 v).Y = s.Y := rfl
@[simp] theorem State.writeK3_SK (s : State) (v : Key64) : (s.writeK3 v).SK = s.SK := rfl
@[simp] theorem State.writeK3_SB (s : State) (v : Key64) : (s.writeK3 v).SB = s.SB := rfl
@[simp] theorem State.writeK3_MI (s : State) (v : Key64) : (s.writeK3 v).MI = s.MI := rfl
@[simp] theorem State.writeK3_MILEN (s : State) (v : Key64) : (s.writeK3 v).MILEN = s.MILEN := rfl
@[simp] theorem State.writeK3_MO (s : State) (v : Key64) : (s.writeK3 v).MO = s.MO := rfl
@[simp] theorem State.writeK3_MOLEN (s : State) (v : Key64) : (s.writeK3 v).MOLEN = s.MOLEN := rfl
@[simp] theorem State.writeK3_STATUS (s : State) (v : Key64) : (s.writeK3 v).STATUS = s.STATUS := rfl
@[simp] theorem State.writeK3_SEQ (s : State) (v : Key64) : (s.writeK3 v).SEQ = s.SEQ := rfl
@[simp] theorem State.writeK3_cfg (s : State) (v : Key64) : (s.writeK3 v).cfg = s.cfg := rfl
@[simp] theorem State.writeK3_host (s : State) (v : Key64) : (s.writeK3 v).host = s.host := rfl
@[simp] theorem State.writeK3_reply (s : State) (v : Key64) : (s.writeK3 v).reply = s.reply := rfl
@[simp] theorem State.writeK3_powerUp (s : State) (v : Key64) : (s.writeK3 v).powerUp = s.powerUp := rfl
@[simp] theorem State.writeK3_draw (s : State) (v : Key64) : (s.writeK3 v).draw = s.draw := rfl

@[simp] theorem State.writeDI_K1 (s : State) (v : Block64) : (s.writeDI v).K1 = s.K1 := rfl
@[simp] theorem State.writeDI_K2 (s : State) (v : Block64) : (s.writeDI v).K2 = s.K2 := rfl
@[simp] theorem State.writeDI_K3 (s : State) (v : Block64) : (s.writeDI v).K3 = s.K3 := rfl
@[simp] theorem State.writeDI_DI (s : State) (v : Block64) : (s.writeDI v).DI = v := rfl
@[simp] theorem State.writeDI_X (s : State) (v : Block64) : (s.writeDI v).X = s.X := rfl
@[simp] theorem State.writeDI_DO (s : State) (v : Block64) : (s.writeDI v).DO = s.DO := rfl
@[simp] theorem State.writeDI_Y (s : State) (v : Block64) : (s.writeDI v).Y = s.Y := rfl
@[simp] theorem State.writeDI_SK (s : State) (v : Block64) : (s.writeDI v).SK = s.SK := rfl
@[simp] theorem State.writeDI_SB (s : State) (v : Block64) : (s.writeDI v).SB = s.SB := rfl
@[simp] theorem State.writeDI_MI (s : State) (v : Block64) : (s.writeDI v).MI = s.MI := rfl
@[simp] theorem State.writeDI_MILEN (s : State) (v : Block64) : (s.writeDI v).MILEN = s.MILEN := rfl
@[simp] theorem State.writeDI_MO (s : State) (v : Block64) : (s.writeDI v).MO = s.MO := rfl
@[simp] theorem State.writeDI_MOLEN (s : State) (v : Block64) : (s.writeDI v).MOLEN = s.MOLEN := rfl
@[simp] theorem State.writeDI_STATUS (s : State) (v : Block64) : (s.writeDI v).STATUS = s.STATUS := rfl
@[simp] theorem State.writeDI_SEQ (s : State) (v : Block64) : (s.writeDI v).SEQ = s.SEQ := rfl
@[simp] theorem State.writeDI_cfg (s : State) (v : Block64) : (s.writeDI v).cfg = s.cfg := rfl
@[simp] theorem State.writeDI_host (s : State) (v : Block64) : (s.writeDI v).host = s.host := rfl
@[simp] theorem State.writeDI_reply (s : State) (v : Block64) : (s.writeDI v).reply = s.reply := rfl
@[simp] theorem State.writeDI_powerUp (s : State) (v : Block64) : (s.writeDI v).powerUp = s.powerUp := rfl
@[simp] theorem State.writeDI_draw (s : State) (v : Block64) : (s.writeDI v).draw = s.draw := rfl

@[simp] theorem State.writeX_K1 (s : State) (v : Sub48) : (s.writeX v).K1 = s.K1 := rfl
@[simp] theorem State.writeX_K2 (s : State) (v : Sub48) : (s.writeX v).K2 = s.K2 := rfl
@[simp] theorem State.writeX_K3 (s : State) (v : Sub48) : (s.writeX v).K3 = s.K3 := rfl
@[simp] theorem State.writeX_DI (s : State) (v : Sub48) : (s.writeX v).DI = s.DI := rfl
@[simp] theorem State.writeX_X (s : State) (v : Sub48) : (s.writeX v).X = v := rfl
@[simp] theorem State.writeX_DO (s : State) (v : Sub48) : (s.writeX v).DO = s.DO := rfl
@[simp] theorem State.writeX_Y (s : State) (v : Sub48) : (s.writeX v).Y = s.Y := rfl
@[simp] theorem State.writeX_SK (s : State) (v : Sub48) : (s.writeX v).SK = s.SK := rfl
@[simp] theorem State.writeX_SB (s : State) (v : Sub48) : (s.writeX v).SB = s.SB := rfl
@[simp] theorem State.writeX_MI (s : State) (v : Sub48) : (s.writeX v).MI = s.MI := rfl
@[simp] theorem State.writeX_MILEN (s : State) (v : Sub48) : (s.writeX v).MILEN = s.MILEN := rfl
@[simp] theorem State.writeX_MO (s : State) (v : Sub48) : (s.writeX v).MO = s.MO := rfl
@[simp] theorem State.writeX_MOLEN (s : State) (v : Sub48) : (s.writeX v).MOLEN = s.MOLEN := rfl
@[simp] theorem State.writeX_STATUS (s : State) (v : Sub48) : (s.writeX v).STATUS = s.STATUS := rfl
@[simp] theorem State.writeX_SEQ (s : State) (v : Sub48) : (s.writeX v).SEQ = s.SEQ := rfl
@[simp] theorem State.writeX_cfg (s : State) (v : Sub48) : (s.writeX v).cfg = s.cfg := rfl
@[simp] theorem State.writeX_host (s : State) (v : Sub48) : (s.writeX v).host = s.host := rfl
@[simp] theorem State.writeX_reply (s : State) (v : Sub48) : (s.writeX v).reply = s.reply := rfl
@[simp] theorem State.writeX_powerUp (s : State) (v : Sub48) : (s.writeX v).powerUp = s.powerUp := rfl
@[simp] theorem State.writeX_draw (s : State) (v : Sub48) : (s.writeX v).draw = s.draw := rfl

@[simp] theorem State.writeDO_K1 (s : State) (v : Block64) : (s.writeDO v).K1 = s.K1 := rfl
@[simp] theorem State.writeDO_K2 (s : State) (v : Block64) : (s.writeDO v).K2 = s.K2 := rfl
@[simp] theorem State.writeDO_K3 (s : State) (v : Block64) : (s.writeDO v).K3 = s.K3 := rfl
@[simp] theorem State.writeDO_DI (s : State) (v : Block64) : (s.writeDO v).DI = s.DI := rfl
@[simp] theorem State.writeDO_X (s : State) (v : Block64) : (s.writeDO v).X = s.X := rfl
@[simp] theorem State.writeDO_DO (s : State) (v : Block64) : (s.writeDO v).DO = v := rfl
@[simp] theorem State.writeDO_Y (s : State) (v : Block64) : (s.writeDO v).Y = s.Y := rfl
@[simp] theorem State.writeDO_SK (s : State) (v : Block64) : (s.writeDO v).SK = s.SK := rfl
@[simp] theorem State.writeDO_SB (s : State) (v : Block64) : (s.writeDO v).SB = s.SB := rfl
@[simp] theorem State.writeDO_MI (s : State) (v : Block64) : (s.writeDO v).MI = s.MI := rfl
@[simp] theorem State.writeDO_MILEN (s : State) (v : Block64) : (s.writeDO v).MILEN = s.MILEN := rfl
@[simp] theorem State.writeDO_MO (s : State) (v : Block64) : (s.writeDO v).MO = s.MO := rfl
@[simp] theorem State.writeDO_MOLEN (s : State) (v : Block64) : (s.writeDO v).MOLEN = s.MOLEN := rfl
@[simp] theorem State.writeDO_STATUS (s : State) (v : Block64) : (s.writeDO v).STATUS = s.STATUS := rfl
@[simp] theorem State.writeDO_SEQ (s : State) (v : Block64) : (s.writeDO v).SEQ = s.SEQ := rfl
@[simp] theorem State.writeDO_cfg (s : State) (v : Block64) : (s.writeDO v).cfg = s.cfg := rfl
@[simp] theorem State.writeDO_host (s : State) (v : Block64) : (s.writeDO v).host = s.host := rfl
@[simp] theorem State.writeDO_reply (s : State) (v : Block64) : (s.writeDO v).reply = s.reply := rfl
@[simp] theorem State.writeDO_powerUp (s : State) (v : Block64) : (s.writeDO v).powerUp = s.powerUp := rfl
@[simp] theorem State.writeDO_draw (s : State) (v : Block64) : (s.writeDO v).draw = s.draw := rfl

@[simp] theorem State.writeY_K1 (s : State) (v : Half32) : (s.writeY v).K1 = s.K1 := rfl
@[simp] theorem State.writeY_K2 (s : State) (v : Half32) : (s.writeY v).K2 = s.K2 := rfl
@[simp] theorem State.writeY_K3 (s : State) (v : Half32) : (s.writeY v).K3 = s.K3 := rfl
@[simp] theorem State.writeY_DI (s : State) (v : Half32) : (s.writeY v).DI = s.DI := rfl
@[simp] theorem State.writeY_X (s : State) (v : Half32) : (s.writeY v).X = s.X := rfl
@[simp] theorem State.writeY_DO (s : State) (v : Half32) : (s.writeY v).DO = s.DO := rfl
@[simp] theorem State.writeY_Y (s : State) (v : Half32) : (s.writeY v).Y = v := rfl
@[simp] theorem State.writeY_SK (s : State) (v : Half32) : (s.writeY v).SK = s.SK := rfl
@[simp] theorem State.writeY_SB (s : State) (v : Half32) : (s.writeY v).SB = s.SB := rfl
@[simp] theorem State.writeY_MI (s : State) (v : Half32) : (s.writeY v).MI = s.MI := rfl
@[simp] theorem State.writeY_MILEN (s : State) (v : Half32) : (s.writeY v).MILEN = s.MILEN := rfl
@[simp] theorem State.writeY_MO (s : State) (v : Half32) : (s.writeY v).MO = s.MO := rfl
@[simp] theorem State.writeY_MOLEN (s : State) (v : Half32) : (s.writeY v).MOLEN = s.MOLEN := rfl
@[simp] theorem State.writeY_STATUS (s : State) (v : Half32) : (s.writeY v).STATUS = s.STATUS := rfl
@[simp] theorem State.writeY_SEQ (s : State) (v : Half32) : (s.writeY v).SEQ = s.SEQ := rfl
@[simp] theorem State.writeY_cfg (s : State) (v : Half32) : (s.writeY v).cfg = s.cfg := rfl
@[simp] theorem State.writeY_host (s : State) (v : Half32) : (s.writeY v).host = s.host := rfl
@[simp] theorem State.writeY_reply (s : State) (v : Half32) : (s.writeY v).reply = s.reply := rfl
@[simp] theorem State.writeY_powerUp (s : State) (v : Half32) : (s.writeY v).powerUp = s.powerUp := rfl
@[simp] theorem State.writeY_draw (s : State) (v : Half32) : (s.writeY v).draw = s.draw := rfl

@[simp] theorem State.writeSK_K1 (s : State) (v : Vector Sub48 16) : (s.writeSK v).K1 = s.K1 := rfl
@[simp] theorem State.writeSK_K2 (s : State) (v : Vector Sub48 16) : (s.writeSK v).K2 = s.K2 := rfl
@[simp] theorem State.writeSK_K3 (s : State) (v : Vector Sub48 16) : (s.writeSK v).K3 = s.K3 := rfl
@[simp] theorem State.writeSK_DI (s : State) (v : Vector Sub48 16) : (s.writeSK v).DI = s.DI := rfl
@[simp] theorem State.writeSK_X (s : State) (v : Vector Sub48 16) : (s.writeSK v).X = s.X := rfl
@[simp] theorem State.writeSK_DO (s : State) (v : Vector Sub48 16) : (s.writeSK v).DO = s.DO := rfl
@[simp] theorem State.writeSK_Y (s : State) (v : Vector Sub48 16) : (s.writeSK v).Y = s.Y := rfl
@[simp] theorem State.writeSK_SK (s : State) (v : Vector Sub48 16) : (s.writeSK v).SK = v := rfl
@[simp] theorem State.writeSK_SB (s : State) (v : Vector Sub48 16) : (s.writeSK v).SB = s.SB := rfl
@[simp] theorem State.writeSK_MI (s : State) (v : Vector Sub48 16) : (s.writeSK v).MI = s.MI := rfl
@[simp] theorem State.writeSK_MILEN (s : State) (v : Vector Sub48 16) : (s.writeSK v).MILEN = s.MILEN := rfl
@[simp] theorem State.writeSK_MO (s : State) (v : Vector Sub48 16) : (s.writeSK v).MO = s.MO := rfl
@[simp] theorem State.writeSK_MOLEN (s : State) (v : Vector Sub48 16) : (s.writeSK v).MOLEN = s.MOLEN := rfl
@[simp] theorem State.writeSK_STATUS (s : State) (v : Vector Sub48 16) : (s.writeSK v).STATUS = s.STATUS := rfl
@[simp] theorem State.writeSK_SEQ (s : State) (v : Vector Sub48 16) : (s.writeSK v).SEQ = s.SEQ := rfl
@[simp] theorem State.writeSK_cfg (s : State) (v : Vector Sub48 16) : (s.writeSK v).cfg = s.cfg := rfl
@[simp] theorem State.writeSK_host (s : State) (v : Vector Sub48 16) : (s.writeSK v).host = s.host := rfl
@[simp] theorem State.writeSK_reply (s : State) (v : Vector Sub48 16) : (s.writeSK v).reply = s.reply := rfl
@[simp] theorem State.writeSK_powerUp (s : State) (v : Vector Sub48 16) : (s.writeSK v).powerUp = s.powerUp := rfl
@[simp] theorem State.writeSK_draw (s : State) (v : Vector Sub48 16) : (s.writeSK v).draw = s.draw := rfl

@[simp] theorem State.writeSB_K1 (s : State) (v : Block64) : (s.writeSB v).K1 = s.K1 := rfl
@[simp] theorem State.writeSB_K2 (s : State) (v : Block64) : (s.writeSB v).K2 = s.K2 := rfl
@[simp] theorem State.writeSB_K3 (s : State) (v : Block64) : (s.writeSB v).K3 = s.K3 := rfl
@[simp] theorem State.writeSB_DI (s : State) (v : Block64) : (s.writeSB v).DI = s.DI := rfl
@[simp] theorem State.writeSB_X (s : State) (v : Block64) : (s.writeSB v).X = s.X := rfl
@[simp] theorem State.writeSB_DO (s : State) (v : Block64) : (s.writeSB v).DO = s.DO := rfl
@[simp] theorem State.writeSB_Y (s : State) (v : Block64) : (s.writeSB v).Y = s.Y := rfl
@[simp] theorem State.writeSB_SK (s : State) (v : Block64) : (s.writeSB v).SK = s.SK := rfl
@[simp] theorem State.writeSB_SB (s : State) (v : Block64) : (s.writeSB v).SB = v := rfl
@[simp] theorem State.writeSB_MI (s : State) (v : Block64) : (s.writeSB v).MI = s.MI := rfl
@[simp] theorem State.writeSB_MILEN (s : State) (v : Block64) : (s.writeSB v).MILEN = s.MILEN := rfl
@[simp] theorem State.writeSB_MO (s : State) (v : Block64) : (s.writeSB v).MO = s.MO := rfl
@[simp] theorem State.writeSB_MOLEN (s : State) (v : Block64) : (s.writeSB v).MOLEN = s.MOLEN := rfl
@[simp] theorem State.writeSB_STATUS (s : State) (v : Block64) : (s.writeSB v).STATUS = s.STATUS := rfl
@[simp] theorem State.writeSB_SEQ (s : State) (v : Block64) : (s.writeSB v).SEQ = s.SEQ := rfl
@[simp] theorem State.writeSB_cfg (s : State) (v : Block64) : (s.writeSB v).cfg = s.cfg := rfl
@[simp] theorem State.writeSB_host (s : State) (v : Block64) : (s.writeSB v).host = s.host := rfl
@[simp] theorem State.writeSB_reply (s : State) (v : Block64) : (s.writeSB v).reply = s.reply := rfl
@[simp] theorem State.writeSB_powerUp (s : State) (v : Block64) : (s.writeSB v).powerUp = s.powerUp := rfl
@[simp] theorem State.writeSB_draw (s : State) (v : Block64) : (s.writeSB v).draw = s.draw := rfl

@[simp] theorem State.withReply_K1 (s : State) (v : Reply) : (s.withReply v).K1 = s.K1 := rfl
@[simp] theorem State.withReply_K2 (s : State) (v : Reply) : (s.withReply v).K2 = s.K2 := rfl
@[simp] theorem State.withReply_K3 (s : State) (v : Reply) : (s.withReply v).K3 = s.K3 := rfl
@[simp] theorem State.withReply_DI (s : State) (v : Reply) : (s.withReply v).DI = s.DI := rfl
@[simp] theorem State.withReply_X (s : State) (v : Reply) : (s.withReply v).X = s.X := rfl
@[simp] theorem State.withReply_DO (s : State) (v : Reply) : (s.withReply v).DO = s.DO := rfl
@[simp] theorem State.withReply_Y (s : State) (v : Reply) : (s.withReply v).Y = s.Y := rfl
@[simp] theorem State.withReply_SK (s : State) (v : Reply) : (s.withReply v).SK = s.SK := rfl
@[simp] theorem State.withReply_SB (s : State) (v : Reply) : (s.withReply v).SB = s.SB := rfl
@[simp] theorem State.withReply_MI (s : State) (v : Reply) : (s.withReply v).MI = s.MI := rfl
@[simp] theorem State.withReply_MILEN (s : State) (v : Reply) : (s.withReply v).MILEN = s.MILEN := rfl
@[simp] theorem State.withReply_MO (s : State) (v : Reply) : (s.withReply v).MO = s.MO := rfl
@[simp] theorem State.withReply_MOLEN (s : State) (v : Reply) : (s.withReply v).MOLEN = s.MOLEN := rfl
@[simp] theorem State.withReply_STATUS (s : State) (v : Reply) : (s.withReply v).STATUS = s.STATUS := rfl
@[simp] theorem State.withReply_SEQ (s : State) (v : Reply) : (s.withReply v).SEQ = s.SEQ := rfl
@[simp] theorem State.withReply_cfg (s : State) (v : Reply) : (s.withReply v).cfg = s.cfg := rfl
@[simp] theorem State.withReply_host (s : State) (v : Reply) : (s.withReply v).host = s.host := rfl
@[simp] theorem State.withReply_reply (s : State) (v : Reply) : (s.withReply v).reply = v := rfl
@[simp] theorem State.withReply_powerUp (s : State) (v : Reply) : (s.withReply v).powerUp = s.powerUp := rfl
@[simp] theorem State.withReply_draw (s : State) (v : Reply) : (s.withReply v).draw = s.draw := rfl

@[simp] theorem State.withHost_K1 (s : State) (v : List HostAction) : (s.withHost v).K1 = s.K1 := rfl
@[simp] theorem State.withHost_K2 (s : State) (v : List HostAction) : (s.withHost v).K2 = s.K2 := rfl
@[simp] theorem State.withHost_K3 (s : State) (v : List HostAction) : (s.withHost v).K3 = s.K3 := rfl
@[simp] theorem State.withHost_DI (s : State) (v : List HostAction) : (s.withHost v).DI = s.DI := rfl
@[simp] theorem State.withHost_X (s : State) (v : List HostAction) : (s.withHost v).X = s.X := rfl
@[simp] theorem State.withHost_DO (s : State) (v : List HostAction) : (s.withHost v).DO = s.DO := rfl
@[simp] theorem State.withHost_Y (s : State) (v : List HostAction) : (s.withHost v).Y = s.Y := rfl
@[simp] theorem State.withHost_SK (s : State) (v : List HostAction) : (s.withHost v).SK = s.SK := rfl
@[simp] theorem State.withHost_SB (s : State) (v : List HostAction) : (s.withHost v).SB = s.SB := rfl
@[simp] theorem State.withHost_MI (s : State) (v : List HostAction) : (s.withHost v).MI = s.MI := rfl
@[simp] theorem State.withHost_MILEN (s : State) (v : List HostAction) : (s.withHost v).MILEN = s.MILEN := rfl
@[simp] theorem State.withHost_MO (s : State) (v : List HostAction) : (s.withHost v).MO = s.MO := rfl
@[simp] theorem State.withHost_MOLEN (s : State) (v : List HostAction) : (s.withHost v).MOLEN = s.MOLEN := rfl
@[simp] theorem State.withHost_STATUS (s : State) (v : List HostAction) : (s.withHost v).STATUS = s.STATUS := rfl
@[simp] theorem State.withHost_SEQ (s : State) (v : List HostAction) : (s.withHost v).SEQ = s.SEQ := rfl
@[simp] theorem State.withHost_cfg (s : State) (v : List HostAction) : (s.withHost v).cfg = s.cfg := rfl
@[simp] theorem State.withHost_host (s : State) (v : List HostAction) : (s.withHost v).host = v := rfl
@[simp] theorem State.withHost_reply (s : State) (v : List HostAction) : (s.withHost v).reply = s.reply := rfl
@[simp] theorem State.withHost_powerUp (s : State) (v : List HostAction) : (s.withHost v).powerUp = s.powerUp := rfl
@[simp] theorem State.withHost_draw (s : State) (v : List HostAction) : (s.withHost v).draw = s.draw := rfl

@[simp] theorem State.writeMiByte_K1 (s : State) (a : Nat) (b : Byte) : (s.writeMiByte a b).K1 = s.K1 := rfl
@[simp] theorem State.writeMiByte_K2 (s : State) (a : Nat) (b : Byte) : (s.writeMiByte a b).K2 = s.K2 := rfl
@[simp] theorem State.writeMiByte_K3 (s : State) (a : Nat) (b : Byte) : (s.writeMiByte a b).K3 = s.K3 := rfl
@[simp] theorem State.writeMiByte_DI (s : State) (a : Nat) (b : Byte) : (s.writeMiByte a b).DI = s.DI := rfl
@[simp] theorem State.writeMiByte_X (s : State) (a : Nat) (b : Byte) : (s.writeMiByte a b).X = s.X := rfl
@[simp] theorem State.writeMiByte_DO (s : State) (a : Nat) (b : Byte) : (s.writeMiByte a b).DO = s.DO := rfl
@[simp] theorem State.writeMiByte_Y (s : State) (a : Nat) (b : Byte) : (s.writeMiByte a b).Y = s.Y := rfl
@[simp] theorem State.writeMiByte_SK (s : State) (a : Nat) (b : Byte) : (s.writeMiByte a b).SK = s.SK := rfl
@[simp] theorem State.writeMiByte_SB (s : State) (a : Nat) (b : Byte) : (s.writeMiByte a b).SB = s.SB := rfl
@[simp] theorem State.writeMiByte_MI (s : State) (a : Nat) (b : Byte) : (s.writeMiByte a b).MI = Memory.write s.MI a b := rfl
@[simp] theorem State.writeMiByte_MILEN (s : State) (a : Nat) (b : Byte) : (s.writeMiByte a b).MILEN = s.MILEN := rfl
@[simp] theorem State.writeMiByte_MO (s : State) (a : Nat) (b : Byte) : (s.writeMiByte a b).MO = s.MO := rfl
@[simp] theorem State.writeMiByte_MOLEN (s : State) (a : Nat) (b : Byte) : (s.writeMiByte a b).MOLEN = s.MOLEN := rfl
@[simp] theorem State.writeMiByte_STATUS (s : State) (a : Nat) (b : Byte) : (s.writeMiByte a b).STATUS = s.STATUS := rfl
@[simp] theorem State.writeMiByte_SEQ (s : State) (a : Nat) (b : Byte) : (s.writeMiByte a b).SEQ = s.SEQ := rfl
@[simp] theorem State.writeMiByte_cfg (s : State) (a : Nat) (b : Byte) : (s.writeMiByte a b).cfg = s.cfg := rfl
@[simp] theorem State.writeMiByte_host (s : State) (a : Nat) (b : Byte) : (s.writeMiByte a b).host = s.host := rfl
@[simp] theorem State.writeMiByte_reply (s : State) (a : Nat) (b : Byte) : (s.writeMiByte a b).reply = s.reply := rfl
@[simp] theorem State.writeMiByte_powerUp (s : State) (a : Nat) (b : Byte) : (s.writeMiByte a b).powerUp = s.powerUp := rfl
@[simp] theorem State.writeMiByte_draw (s : State) (a : Nat) (b : Byte) : (s.writeMiByte a b).draw = s.draw + 1 := rfl

@[simp] theorem State.writeMILEN_K1 (s : State) (v : Nat) : (s.writeMILEN v).K1 = s.K1 := rfl
@[simp] theorem State.writeMILEN_K2 (s : State) (v : Nat) : (s.writeMILEN v).K2 = s.K2 := rfl
@[simp] theorem State.writeMILEN_K3 (s : State) (v : Nat) : (s.writeMILEN v).K3 = s.K3 := rfl
@[simp] theorem State.writeMILEN_DI (s : State) (v : Nat) : (s.writeMILEN v).DI = s.DI := rfl
@[simp] theorem State.writeMILEN_X (s : State) (v : Nat) : (s.writeMILEN v).X = s.X := rfl
@[simp] theorem State.writeMILEN_DO (s : State) (v : Nat) : (s.writeMILEN v).DO = s.DO := rfl
@[simp] theorem State.writeMILEN_Y (s : State) (v : Nat) : (s.writeMILEN v).Y = s.Y := rfl
@[simp] theorem State.writeMILEN_SK (s : State) (v : Nat) : (s.writeMILEN v).SK = s.SK := rfl
@[simp] theorem State.writeMILEN_SB (s : State) (v : Nat) : (s.writeMILEN v).SB = s.SB := rfl
@[simp] theorem State.writeMILEN_MI (s : State) (v : Nat) : (s.writeMILEN v).MI = s.MI := rfl
@[simp] theorem State.writeMILEN_MILEN (s : State) (v : Nat) : (s.writeMILEN v).MILEN = v := rfl
@[simp] theorem State.writeMILEN_MO (s : State) (v : Nat) : (s.writeMILEN v).MO = s.MO := rfl
@[simp] theorem State.writeMILEN_MOLEN (s : State) (v : Nat) : (s.writeMILEN v).MOLEN = s.MOLEN := rfl
@[simp] theorem State.writeMILEN_STATUS (s : State) (v : Nat) : (s.writeMILEN v).STATUS = s.STATUS := rfl
@[simp] theorem State.writeMILEN_SEQ (s : State) (v : Nat) : (s.writeMILEN v).SEQ = s.SEQ := rfl
@[simp] theorem State.writeMILEN_cfg (s : State) (v : Nat) : (s.writeMILEN v).cfg = s.cfg := rfl
@[simp] theorem State.writeMILEN_host (s : State) (v : Nat) : (s.writeMILEN v).host = s.host := rfl
@[simp] theorem State.writeMILEN_reply (s : State) (v : Nat) : (s.writeMILEN v).reply = s.reply := rfl
@[simp] theorem State.writeMILEN_powerUp (s : State) (v : Nat) : (s.writeMILEN v).powerUp = s.powerUp := rfl
@[simp] theorem State.writeMILEN_draw (s : State) (v : Nat) : (s.writeMILEN v).draw = s.draw + 1 := rfl

@[simp] theorem State.writeMessageIn_K1 (s : State) (bs : List Byte) : (s.writeMessageIn bs).K1 = s.K1 := rfl
@[simp] theorem State.writeMessageIn_K2 (s : State) (bs : List Byte) : (s.writeMessageIn bs).K2 = s.K2 := rfl
@[simp] theorem State.writeMessageIn_K3 (s : State) (bs : List Byte) : (s.writeMessageIn bs).K3 = s.K3 := rfl
@[simp] theorem State.writeMessageIn_DI (s : State) (bs : List Byte) : (s.writeMessageIn bs).DI = s.DI := rfl
@[simp] theorem State.writeMessageIn_X (s : State) (bs : List Byte) : (s.writeMessageIn bs).X = s.X := rfl
@[simp] theorem State.writeMessageIn_DO (s : State) (bs : List Byte) : (s.writeMessageIn bs).DO = s.DO := rfl
@[simp] theorem State.writeMessageIn_Y (s : State) (bs : List Byte) : (s.writeMessageIn bs).Y = s.Y := rfl
@[simp] theorem State.writeMessageIn_SK (s : State) (bs : List Byte) : (s.writeMessageIn bs).SK = s.SK := rfl
@[simp] theorem State.writeMessageIn_SB (s : State) (bs : List Byte) : (s.writeMessageIn bs).SB = s.SB := rfl
@[simp] theorem State.writeMessageIn_MI (s : State) (bs : List Byte) : (s.writeMessageIn bs).MI = Memory.writeBytes s.MI 0 (heldBytes s.cfg bs) := rfl
@[simp] theorem State.writeMessageIn_MILEN (s : State) (bs : List Byte) : (s.writeMessageIn bs).MILEN = bs.length := rfl
@[simp] theorem State.writeMessageIn_MO (s : State) (bs : List Byte) : (s.writeMessageIn bs).MO = s.MO := rfl
@[simp] theorem State.writeMessageIn_MOLEN (s : State) (bs : List Byte) : (s.writeMessageIn bs).MOLEN = s.MOLEN := rfl
@[simp] theorem State.writeMessageIn_STATUS (s : State) (bs : List Byte) : (s.writeMessageIn bs).STATUS = s.STATUS := rfl
@[simp] theorem State.writeMessageIn_SEQ (s : State) (bs : List Byte) : (s.writeMessageIn bs).SEQ = s.SEQ := rfl
@[simp] theorem State.writeMessageIn_cfg (s : State) (bs : List Byte) : (s.writeMessageIn bs).cfg = s.cfg := rfl
@[simp] theorem State.writeMessageIn_host (s : State) (bs : List Byte) : (s.writeMessageIn bs).host = s.host := rfl
@[simp] theorem State.writeMessageIn_reply (s : State) (bs : List Byte) : (s.writeMessageIn bs).reply = s.reply := rfl
@[simp] theorem State.writeMessageIn_powerUp (s : State) (bs : List Byte) : (s.writeMessageIn bs).powerUp = s.powerUp := rfl
@[simp] theorem State.writeMessageIn_draw (s : State) (bs : List Byte) : (s.writeMessageIn bs).draw = s.draw + 1 := rfl

@[simp] theorem State.writeMessageOut_K1 (s : State) (bs : List Byte) : (s.writeMessageOut bs).K1 = s.K1 := rfl
@[simp] theorem State.writeMessageOut_K2 (s : State) (bs : List Byte) : (s.writeMessageOut bs).K2 = s.K2 := rfl
@[simp] theorem State.writeMessageOut_K3 (s : State) (bs : List Byte) : (s.writeMessageOut bs).K3 = s.K3 := rfl
@[simp] theorem State.writeMessageOut_DI (s : State) (bs : List Byte) : (s.writeMessageOut bs).DI = s.DI := rfl
@[simp] theorem State.writeMessageOut_X (s : State) (bs : List Byte) : (s.writeMessageOut bs).X = s.X := rfl
@[simp] theorem State.writeMessageOut_DO (s : State) (bs : List Byte) : (s.writeMessageOut bs).DO = s.DO := rfl
@[simp] theorem State.writeMessageOut_Y (s : State) (bs : List Byte) : (s.writeMessageOut bs).Y = s.Y := rfl
@[simp] theorem State.writeMessageOut_SK (s : State) (bs : List Byte) : (s.writeMessageOut bs).SK = s.SK := rfl
@[simp] theorem State.writeMessageOut_SB (s : State) (bs : List Byte) : (s.writeMessageOut bs).SB = s.SB := rfl
@[simp] theorem State.writeMessageOut_MI (s : State) (bs : List Byte) : (s.writeMessageOut bs).MI = s.MI := rfl
@[simp] theorem State.writeMessageOut_MILEN (s : State) (bs : List Byte) : (s.writeMessageOut bs).MILEN = s.MILEN := rfl
@[simp] theorem State.writeMessageOut_MO (s : State) (bs : List Byte) : (s.writeMessageOut bs).MO = Memory.writeBytes s.MO 0 bs := rfl
@[simp] theorem State.writeMessageOut_MOLEN (s : State) (bs : List Byte) : (s.writeMessageOut bs).MOLEN = bs.length := rfl
@[simp] theorem State.writeMessageOut_STATUS (s : State) (bs : List Byte) : (s.writeMessageOut bs).STATUS = s.STATUS := rfl
@[simp] theorem State.writeMessageOut_SEQ (s : State) (bs : List Byte) : (s.writeMessageOut bs).SEQ = s.SEQ := rfl
@[simp] theorem State.writeMessageOut_cfg (s : State) (bs : List Byte) : (s.writeMessageOut bs).cfg = s.cfg := rfl
@[simp] theorem State.writeMessageOut_host (s : State) (bs : List Byte) : (s.writeMessageOut bs).host = s.host := rfl
@[simp] theorem State.writeMessageOut_reply (s : State) (bs : List Byte) : (s.writeMessageOut bs).reply = s.reply := rfl
@[simp] theorem State.writeMessageOut_powerUp (s : State) (bs : List Byte) : (s.writeMessageOut bs).powerUp = s.powerUp := rfl
@[simp] theorem State.writeMessageOut_draw (s : State) (bs : List Byte) : (s.writeMessageOut bs).draw = s.draw + 1 := rfl

@[simp] theorem complete_K1 (s : State) (v : BitVec 8) : (complete s v).K1 = s.K1 := rfl
@[simp] theorem complete_K2 (s : State) (v : BitVec 8) : (complete s v).K2 = s.K2 := rfl
@[simp] theorem complete_K3 (s : State) (v : BitVec 8) : (complete s v).K3 = s.K3 := rfl
@[simp] theorem complete_DI (s : State) (v : BitVec 8) : (complete s v).DI = s.DI := rfl
@[simp] theorem complete_X (s : State) (v : BitVec 8) : (complete s v).X = s.X := rfl
@[simp] theorem complete_DO (s : State) (v : BitVec 8) : (complete s v).DO = s.DO := rfl
@[simp] theorem complete_Y (s : State) (v : BitVec 8) : (complete s v).Y = s.Y := rfl
@[simp] theorem complete_SK (s : State) (v : BitVec 8) : (complete s v).SK = s.SK := rfl
@[simp] theorem complete_SB (s : State) (v : BitVec 8) : (complete s v).SB = s.SB := rfl
@[simp] theorem complete_MI (s : State) (v : BitVec 8) : (complete s v).MI = s.MI := rfl
@[simp] theorem complete_MILEN (s : State) (v : BitVec 8) : (complete s v).MILEN = s.MILEN := rfl
@[simp] theorem complete_MO (s : State) (v : BitVec 8) : (complete s v).MO = s.MO := rfl
@[simp] theorem complete_MOLEN (s : State) (v : BitVec 8) : (complete s v).MOLEN = s.MOLEN := rfl
@[simp] theorem complete_STATUS (s : State) (v : BitVec 8) : (complete s v).STATUS = v := rfl
@[simp] theorem complete_SEQ (s : State) (v : BitVec 8) : (complete s v).SEQ = s.SEQ := rfl
@[simp] theorem complete_cfg (s : State) (v : BitVec 8) : (complete s v).cfg = s.cfg := rfl
@[simp] theorem complete_host (s : State) (v : BitVec 8) : (complete s v).host = s.host := rfl
@[simp] theorem complete_reply (s : State) (v : BitVec 8) : (complete s v).reply = .completed := rfl
@[simp] theorem complete_powerUp (s : State) (v : BitVec 8) : (complete s v).powerUp = s.powerUp := rfl
@[simp] theorem complete_draw (s : State) (v : BitVec 8) : (complete s v).draw = s.draw := rfl

@[simp] theorem raise_K1 (s : State) (e : Error) : (raise s e).K1 = s.K1 := rfl
@[simp] theorem raise_K2 (s : State) (e : Error) : (raise s e).K2 = s.K2 := rfl
@[simp] theorem raise_K3 (s : State) (e : Error) : (raise s e).K3 = s.K3 := rfl
@[simp] theorem raise_DI (s : State) (e : Error) : (raise s e).DI = s.DI := rfl
@[simp] theorem raise_X (s : State) (e : Error) : (raise s e).X = s.X := rfl
@[simp] theorem raise_DO (s : State) (e : Error) : (raise s e).DO = s.DO := rfl
@[simp] theorem raise_Y (s : State) (e : Error) : (raise s e).Y = s.Y := rfl
@[simp] theorem raise_SK (s : State) (e : Error) : (raise s e).SK = s.SK := rfl
@[simp] theorem raise_SB (s : State) (e : Error) : (raise s e).SB = s.SB := rfl
@[simp] theorem raise_MI (s : State) (e : Error) : (raise s e).MI = s.MI := rfl
@[simp] theorem raise_MILEN (s : State) (e : Error) : (raise s e).MILEN = s.MILEN := rfl
@[simp] theorem raise_MO (s : State) (e : Error) : (raise s e).MO = s.MO := rfl
@[simp] theorem raise_MOLEN (s : State) (e : Error) : (raise s e).MOLEN = s.MOLEN := rfl
@[simp] theorem raise_STATUS (s : State) (e : Error) : (raise s e).STATUS = statusWord false false false e.code := rfl
@[simp] theorem raise_SEQ (s : State) (e : Error) : (raise s e).SEQ = s.SEQ := rfl
@[simp] theorem raise_cfg (s : State) (e : Error) : (raise s e).cfg = s.cfg := rfl
@[simp] theorem raise_host (s : State) (e : Error) : (raise s e).host = s.host := rfl
@[simp] theorem raise_reply (s : State) (e : Error) : (raise s e).reply = .error e := rfl
@[simp] theorem raise_powerUp (s : State) (e : Error) : (raise s e).powerUp = s.powerUp := rfl
@[simp] theorem raise_draw (s : State) (e : Error) : (raise s e).draw = s.draw := rfl

@[simp] theorem resetNow_K1 (s : State) : (resetNow s).K1 = State.reset.K1 := rfl
@[simp] theorem resetNow_K2 (s : State) : (resetNow s).K2 = State.reset.K2 := rfl
@[simp] theorem resetNow_K3 (s : State) : (resetNow s).K3 = State.reset.K3 := rfl
@[simp] theorem resetNow_DI (s : State) : (resetNow s).DI = State.reset.DI := rfl
@[simp] theorem resetNow_X (s : State) : (resetNow s).X = State.reset.X := rfl
@[simp] theorem resetNow_DO (s : State) : (resetNow s).DO = State.reset.DO := rfl
@[simp] theorem resetNow_Y (s : State) : (resetNow s).Y = State.reset.Y := rfl
@[simp] theorem resetNow_SK (s : State) : (resetNow s).SK = State.reset.SK := rfl
@[simp] theorem resetNow_SB (s : State) : (resetNow s).SB = State.reset.SB := rfl
@[simp] theorem resetNow_MI (s : State) : (resetNow s).MI = State.reset.MI := rfl
@[simp] theorem resetNow_MILEN (s : State) : (resetNow s).MILEN = State.reset.MILEN := rfl
@[simp] theorem resetNow_MO (s : State) : (resetNow s).MO = State.reset.MO := rfl
@[simp] theorem resetNow_MOLEN (s : State) : (resetNow s).MOLEN = State.reset.MOLEN := rfl
@[simp] theorem resetNow_STATUS (s : State) : (resetNow s).STATUS = State.reset.STATUS := rfl
@[simp] theorem resetNow_SEQ (s : State) : (resetNow s).SEQ = State.reset.SEQ := rfl
@[simp] theorem resetNow_cfg (s : State) : (resetNow s).cfg = s.cfg := rfl
@[simp] theorem resetNow_host (s : State) : (resetNow s).host = s.host := rfl
@[simp] theorem resetNow_reply (s : State) : (resetNow s).reply = .completed := rfl
@[simp] theorem resetNow_powerUp (s : State) : (resetNow s).powerUp = s.powerUp + 1 := rfl
@[simp] theorem resetNow_draw (s : State) : (resetNow s).draw = s.draw + 1 := rfl

end Sys2Proof.Machine
end

