-- ==== Sys2Proof/Laws/Step.lean ====
section
/-! SUPPORT. Said once: everything an operation, a command and a step can do. -/

namespace Sys2Proof.Machine

/-- An operation writes one result register and `STATUS`, or a message result, or takes `E_CAP`; it always answers a
next state. -/
theorem exec_cases (i : Instr) (s : State) :
    (∃ v, exec i s = .next (complete (s.writeY v) 0)) ∨
    (∃ v, exec i s = .next (complete (s.writeSK v) 0)) ∨
    (∃ v, exec i s = .next (complete (s.writeDO v) 0)) ∨
    (∃ out sb sbv, fitsCapacity s.cfg s.MILEN = true ∧ out.length ≤ 8 * (s.MILEN / 8 + 1) ∧ (sbv = true → s.MILEN = 8) ∧
      exec i s = .next (complete ((s.writeMessageOut out).writeSB sb) (messageStatus s.MILEN sbv))) ∨
    (fitsCapacity s.cfg s.MILEN = false ∧ exec i s = .next (raise s (.eCap s.MILEN))) := by
  have hm : (messageOperand s).length = s.MILEN := by simp [messageOperand]
  cases i with
  | subst => exact .inl ⟨_, rfl⟩
  | ksched => exact .inr (.inl ⟨_, rfl⟩)
  | ffunc => exact .inl ⟨_, rfl⟩
  | round => exact .inr (.inr (.inl ⟨_, rfl⟩))
  | desenc => exact .inr (.inr (.inl ⟨_, rfl⟩))
  | desdec => exact .inr (.inr (.inl ⟨_, rfl⟩))
  | tenc => exact .inr (.inr (.inl ⟨_, rfl⟩))
  | tdec => exact .inr (.inr (.inl ⟨_, rfl⟩))
  | menc p =>
    by_cases h : fitsCapacity s.cfg s.MILEN = true
    · refine .inr (.inr (.inr (.inl ⟨encryptBlocks (prepare (messageOperand s) p) s.K1 s.K2 s.K3, comparisonResult p s,
        writesComparison p s.MILEN, h, ?_, ?_, by simp [exec, execMenc, h]⟩)))
      · have := prepare_length_le (messageOperand s) p
        rw [encryptBlocks_length]
        rw [hm] at this
        omega
      · intro hw
        simp [writesComparison] at hw
        exact hw.2
    · exact .inr (.inr (.inr (.inr ⟨by simpa using h, by simp [exec, execMenc, h]⟩)))
  | mdec p =>
    by_cases h : fitsCapacity s.cfg s.MILEN = true
    · refine .inr (.inr (.inr (.inl ⟨if p then unpad (decryptBlocks (prepare (messageOperand s) false) s.K1 s.K2 s.K3)
        else decryptBlocks (prepare (messageOperand s) false) s.K1 s.K2 s.K3, s.SB, false, h, ?_, by simp, ?_⟩)))
      · have h1 := prepare_length_le (messageOperand s) false
        have h2 := unpad_length_le (decryptBlocks (prepare (messageOperand s) false) s.K1 s.K2 s.K3)
        rw [hm] at h1
        rw [decryptBlocks_length] at h2
        split
        · omega
        · rw [decryptBlocks_length]; omega
      · simp [exec, execMdec, h, State.writeSB, State.writeMessageOut]
    · exact .inr (.inr (.inr (.inr ⟨by simpa using h, by simp [exec, execMdec, h]⟩)))

/-- The state MENC leaves on a message that fits. -/
theorem exec_menc_of_fits {p : Bool} {s : State} (h : fitsCapacity s.cfg s.MILEN = true) :
    exec (.menc p) s = .next (complete
      ((s.writeMessageOut (encryptBlocks (prepare (messageOperand s) p) s.K1 s.K2 s.K3)).writeSB (comparisonResult p s))
      (messageStatus s.MILEN (writesComparison p s.MILEN))) := by
  simp only [exec, execMenc, h, if_true]

/-- The state MDEC leaves on a message that fits. -/
theorem exec_mdec_of_fits {p : Bool} {s : State} (h : fitsCapacity s.cfg s.MILEN = true) :
    exec (.mdec p) s = .next (complete
      (s.writeMessageOut (if p then unpad (decryptBlocks (prepare (messageOperand s) false) s.K1 s.K2 s.K3)
        else decryptBlocks (prepare (messageOperand s) false) s.K1 s.K2 s.K3))
      (messageStatus s.MILEN false)) := by
  simp only [exec, execMdec, h, if_true]

/-- A command runs the operation its word decodes to, or takes `E_ILLOP`. -/
theorem runCommand_cases (c : BitVec 8) (s : State) :
    (∃ i, decode c = .ok i ∧ runCommand c s = exec i s) ∨
    (∃ e, decode c = .error e ∧ runCommand c s = .next (raise s (.eIllop c))) := by
  unfold runCommand
  cases h : decode c with
  | ok i => exact .inl ⟨i, rfl, rfl⟩
  | error e => exact .inr ⟨e, rfl, rfl⟩

/-- What serving a host action can answer with a next state. -/
theorem serve_cases {a : HostAction} {s t : State} (h : serve a s = .next t) :
    (∃ w, a = .wr w ∧ t = (writeRegister w s).withReply .completed) ∨
    (∃ bs, a = .wrm bs ∧ t = (s.writeMessageIn bs).withReply .completed) ∨
    (∃ addr b, a = .wrMi addr b ∧ fitsCapacity s.cfg (addr + 1) = true ∧ t = (s.writeMiByte addr b).withReply .completed) ∨
    (∃ n, a = .wrMilen n ∧ t = (s.writeMILEN n).withReply .completed) ∨
    (∃ c, a = .cmd c ∧ runCommand c s = .next t) ∨
    (∃ p v, a = .rd p ∧ readPort p s = .next v ∧ t = s.withReply (.read v)) ∨
    (a = .reset ∧ t = resetNow s) := by
  cases a with
  | wr w => exact .inl ⟨w, rfl, by simpa [serve] using h.symm⟩
  | wrm bs => exact .inr (.inl ⟨bs, rfl, by simpa [serve] using h.symm⟩)
  | wrMi addr b =>
    by_cases hf : fitsCapacity s.cfg (addr + 1) = true
    · exact .inr (.inr (.inl ⟨addr, b, rfl, hf, by simpa [serve, hf] using h.symm⟩))
    · simp [serve, hf] at h
  | wrMilen n => exact .inr (.inr (.inr (.inl ⟨n, rfl, by simpa [serve] using h.symm⟩)))
  | cmd c => exact .inr (.inr (.inr (.inr (.inl ⟨c, rfl, h⟩))))
  | rd p =>
    simp only [serve] at h
    cases hp : readPort p s with
    | next v => exact .inr (.inr (.inr (.inr (.inr (.inl ⟨p, v, rfl, hp, by simpa [hp] using h.symm⟩)))))
    | fault f => simp [hp] at h
    | refused r => simp [hp] at h
  | reset => exact .inr (.inr (.inr (.inr (.inr (.inr ⟨rfl, by simpa [serve] using h.symm⟩)))))

/-- A step is idle, or serves the oldest pending host action. -/
theorem step_cases (s : State) :
    (s.host = [] ∧ step s = .next s) ∨ (∃ a rest, s.host = a :: rest ∧ step s = serve a (s.withHost rest)) := by
  unfold step serveNext
  cases h : s.host with
  | nil => exact .inl ⟨rfl, rfl⟩
  | cons a rest => exact .inr ⟨a, rest, rfl, rfl⟩

/-- A step with a pending action serves it. -/
theorem step_of_pending {s : State} {a : HostAction} {rest : List HostAction} (h : s.host = a :: rest) :
    step s = serve a (s.withHost rest) := by
  simp only [step, serveNext, h]

/-! ### The host's queue -/

/-- An outcome with another host queue in its next state. -/
def mapHost (h : List HostAction) : Host.Outcome State Fault Refusal → Host.Outcome State Fault Refusal
  | .next t => .next (t.withHost h)
  | .fault f => .fault f
  | .refused r => .refused r

/-- No operation looks at the host's queue, or changes it. -/
theorem exec_withHost (i : Instr) (s : State) (h : List HostAction) : exec i (s.withHost h) = mapHost h (exec i s) := by
  cases i <;> try rfl
  · simp only [exec, execMenc, State.withHost_cfg, State.withHost_MILEN]
    by_cases hf : fitsCapacity s.cfg s.MILEN = true <;> simp only [hf] <;> rfl
  · simp only [exec, execMdec, State.withHost_cfg, State.withHost_MILEN]
    by_cases hf : fitsCapacity s.cfg s.MILEN = true <;> simp only [hf] <;> rfl

/-- No host action looks at the actions after it, or changes them. -/
theorem serve_withHost (a : HostAction) (s : State) (h : List HostAction) :
    serve a (s.withHost h) = mapHost h (serve a s) := by
  cases a with
  | wr w => cases w <;> rfl
  | cmd c =>
    simp only [serve, runCommand]
    cases decode c <;> simp [exec_withHost]
    rfl
  | rd p =>
    have : readPort p (s.withHost h) = readPort p s := by cases p <;> rfl
    simp only [serve, this]
    cases readPort p s <;> rfl
  | wrMi a b =>
    simp only [serve, State.withHost_cfg]
    by_cases hf : fitsCapacity s.cfg (a + 1) = true <;> simp only [hf] <;> rfl
  | _ => rfl

end Sys2Proof.Machine
end

