-- ==== Sys2Proof/Tests/Slice0.lean ====
section
/-! SUPPORT. Tests and witnesses. The expected values of the tests are those of spec/95_test_vectors.md (the section is
named at each) or are written out from 30_encoding.md R51 to R53. A witness shows a state and operands that meet all the
hypotheses of an obligation together. -/

namespace Sys2Proof.Tests

open Sys2Proof Sys2Proof.Machine Sys2Proof.Spec

/-- A view of the next state, if there is one. -/
def look {α : Type} (o : Host.Outcome State Fault Refusal) (f : State → α) : Option α :=
  match o with
  | .next t => some (f t)
  | _ => none

/-- A reset block whose buffers hold `8 * k` bytes. -/
def withBlocks (k : Nat) : State := { State.reset with cfg := { capacityBlocks := some k } }

/-- A message of bytes given as numbers. -/
def message (bs : List Nat) : List Byte := bs.map (BitVec.ofNat 8)

/-- Section 2.7's keys and a message. -/
def messageState (bs : List Nat) : State :=
  { State.reset.writeMessageIn (message bs) with
    K1 := 0x3132333435363738, K2 := 0x6162636465666768, K3 := 0x4142434445464748 }

/-! ### WellFormed: each check refuses an ill-formed word -/

theorem test_reserved_bits_ill_formed : (CommandFields.mk 0x5 false 1).wellFormed = false := by decide
theorem test_opcode_zero_ill_formed : (CommandFields.mk 0x0 false 0).wellFormed = false := by decide
theorem test_opcode_eleven_ill_formed : (CommandFields.mk 0xB false 0).wellFormed = false := by decide
theorem test_padding_on_tdec_ill_formed : (CommandFields.mk 0x8 true 0).wellFormed = false := by decide
theorem test_padding_on_mdec_well_formed : (CommandFields.mk 0xA true 0).wellFormed = true := by decide

/-! ### Decoding: `CMD[7:5] = 000`, `CMD[4] = P`, `CMD[3:0] = OP`, written out bit by bit (R51, R52) -/

theorem test_decode_subst : decode 0b00000001 = .ok .subst := by decide
theorem test_decode_ksched : decode 0b00000010 = .ok .ksched := by decide
theorem test_decode_ffunc : decode 0b00000011 = .ok .ffunc := by decide
theorem test_decode_round : decode 0b00000100 = .ok .round := by decide
theorem test_decode_desenc : decode 0b00000101 = .ok .desenc := by decide
theorem test_decode_desdec : decode 0b00000110 = .ok .desdec := by decide
theorem test_decode_tenc : decode 0b00000111 = .ok .tenc := by decide
theorem test_decode_tdec : decode 0b00001000 = .ok .tdec := by decide
theorem test_decode_menc : decode 0b00001001 = .ok (.menc false) ∧ decode 0b00011001 = .ok (.menc true) := by decide
theorem test_decode_mdec : decode 0b00001010 = .ok (.mdec false) ∧ decode 0b00011010 = .ok (.mdec true) := by decide

/-- Section 2.10's illegal words, by the reason. -/
theorem test_decode_rejects :
    decode 0b00000000 = .error .unassignedOpcode ∧ decode 0b00001011 = .error .unassignedOpcode ∧
    decode 0b00001111 = .error .unassignedOpcode ∧ decode 0b00010101 = .error .paddingNotAllowed ∧
    decode 0b00010001 = .error .paddingNotAllowed ∧ decode 0b00011000 = .error .paddingNotAllowed ∧
    decode 0b00100101 = .error .reservedBitsSet ∧ decode 0b10000101 = .error .reservedBitsSet ∧
    decode 0b11111111 = .error .reservedBitsSet ∧ decode 0b00101001 = .error .reservedBitsSet ∧
    decode 0b00111001 = .error .reservedBitsSet := by decide

/-! ### Primitives (section 2.1) -/

theorem test_permute : permute (0b1011 : BitVec 4) (⟨[4, 3, 2, 1, 1, 1], rfl, by decide⟩ : PermTable 4 6) = 0b110111 := by
  decide
theorem test_rotl : rotl (0xf0ccaaf : BitVec 28) 2 = 0xc332abf := by decide
theorem test_xor : xorBits (0x7a15557a1555 : BitVec 48) 0x1b02effc7072 = 0x6117ba866527 := by decide
theorem test_untyped_xor :
    untypedXor [true, true, false, false] [true, false, true] = .error (.eLen .xor 3) ∧
    untypedXor [true, true, false, false] [true, false, true, false] = .ok [false, true, true, false] := by
  constructor <;> rfl
theorem test_untyped_rotation : untypedCircularShiftLeft [true, false, false, true, true] 2
    = some [false, true, true, true, false] := by decide
theorem test_untyped_index_out_of_range : untypedPermute [true, false] [1, 3] = none := by decide

/-! ### Instructions -/

/-- Section 2.2, third row. -/
theorem test_subst : look (exec .subst { State.reset with X := 0x6117ba866527 }) (fun t => (t.Y, t.STATUS))
    = some (0x5c82b597, 0x00) := by decide +kernel

/-- Section 2.2: chunk value 1 is row 1, column 0. -/
theorem test_subst_row : look (exec .subst { State.reset with X := 0x040000000000 }) (fun t => t.Y) = some 0x0fa72c4d := by
  decide +kernel

/-- Section 2.3, rounds 1, 2, 9 and 16. -/
theorem test_ksched : look (exec .ksched { State.reset with K1 := 0x133457799bbcdff1 })
      (fun t => (t.SK[0], t.SK[1], t.SK[8], t.SK[15]))
    = some (0x1b02effc7072, 0x79aed9dbc9e5, 0xe0dbebede781, 0xcb3d8b0e17f5) := by decide +kernel

/-- Section 2.4, first row. -/
theorem test_ffunc : look (exec .ffunc { State.reset with DI := 0xf0aaf0aa, X := 0x1b02effc7072 }) (fun t => t.Y)
    = some 0x234aa9bb := by decide +kernel

/-- Section 2.4, last row: E wraps around. -/
theorem test_ffunc_wrap : look (exec .ffunc { State.reset with DI := 0x80000001 }) (fun t => t.Y) = some 0xd8dadbbe := by
  decide +kernel

/-- Section 2.4, ROUND. -/
theorem test_round : look (exec .round { State.reset with DI := 0xcc00ccfff0aaf0aa, X := 0x1b02effc7072 }) (fun t => t.DO)
    = some 0xf0aaf0aaef4a6544 := by decide +kernel

/-- Section 2.5. -/
theorem test_desenc : look (exec .desenc { State.reset with K1 := 0x133457799bbcdff1, DI := 0x0123456789abcdef })
    (fun t => (t.DO, t.STATUS)) = some (0x85e813540f0ab405, 0x00) := by decide +kernel

/-- Section 2.5, back. -/
theorem test_desdec : look (exec .desdec { State.reset with K1 := 0x133457799bbcdff1, DI := 0x85e813540f0ab405 })
    (fun t => t.DO) = some 0x0123456789abcdef := by decide +kernel

/-- Program 3's keys. -/
def tripleState (block : Block64) : State :=
  { State.reset with K1 := 0x0123456789abcdef, K2 := 0x23456789abcdef01, K3 := 0x456789abcdef0123, DI := block }

/-- Program 3. -/
theorem test_tenc : look (exec .tenc (tripleState 0x5468652071756663)) (fun t => t.DO) = some 0xa826fd8ce53b855f := by
  decide +kernel

/-- Program 3, back. -/
theorem test_tdec : look (exec .tdec (tripleState 0xa826fd8ce53b855f)) (fun t => t.DO) = some 0x5468652071756663 := by
  decide +kernel

/-- Section 2.7: the message `31323334353637` without padding, and `3132333435363738` with it, which writes `SB`. -/
theorem test_menc : look (exec (.menc false) (messageState [0x31, 0x32, 0x33, 0x34, 0x35, 0x36, 0x37]))
      (fun t => (messageOut t, t.STATUS))
    = some (message [0x1b, 0x56, 0xe6, 0xd9, 0x7f, 0x57, 0xb0, 0x27], 0x01) := by decide +kernel
theorem test_menc_padded : look (exec (.menc true) (messageState [0x31, 0x32, 0x33, 0x34, 0x35, 0x36, 0x37, 0x38]))
      (fun t => (messageOut t, t.STATUS, t.SB))
    = some (message [0x6c, 0xe1, 0x3c, 0x68, 0x46, 0x43, 0x26, 0xef, 0x20, 0x75, 0xb7, 0x7b, 0x38, 0x09, 0x6a, 0x60], 0x06,
        0x6ce13c68464326ef) := by decide +kernel

/-- Section 2.8: three bytes 0x03 stripped. -/
theorem test_mdec : look (exec (.mdec true) (messageState [0x08, 0xb2, 0x89, 0x14, 0xe6, 0xac, 0xbd, 0xb4]))
      (fun t => (messageOut t, t.STATUS)) = some (message [0x61, 0x62, 0x63, 0x64, 0x65], 0x02) := by decide +kernel

/-- Section 2.8: three bytes of which one is 2 are left; eight bytes 0x08 leave nothing. -/
theorem test_unpad :
    unpad (message [0x61, 0x62, 0x63, 0x64, 0x65, 0x02, 0x03, 0x03]) = message [0x61, 0x62, 0x63, 0x64, 0x65, 0x02, 0x03, 0x03] ∧
    unpad (message [0x08, 0x08, 0x08, 0x08, 0x08, 0x08, 0x08, 0x08]) = [] := by decide

/-! ### Errors and stepping (section 2.10, program 5) -/

theorem test_illegal_word : look (step (State.reset.withFetchWord 8 0x15)) (fun t => (t.STATUS, t.DO, t.reply, t.host))
    = some (0x30, 0, .error (.eIllop 0x15), []) := by decide

/-- `MAXBYTES = 16` and a message of 17 bytes. -/
theorem test_capacity : look (exec (.menc true) { withBlocks 2 with MILEN := 17, MOLEN := 8 })
    (fun t => (t.STATUS, t.MOLEN, t.reply)) = some (0x40, 8, .error (.eCap 17)) := by decide

/-- A command is the first step after reset. -/
theorem test_first_command : look (step (State.reset.withFetchWord 8 0b00000001)) (fun t => t.Y) = some 0xefa72c4d := by
  decide +kernel

theorem test_table_word : decodeTableWord 8 0x1a = some (.mdec true) ∧ decodeTableWord 8 0x2a = none := by decide

/-! ### Codecs and adapter (sections 2.1, 2.9); characters by their code points -/

theorem test_text_codepoint : textToBits [72, 8364, 9999] = .error (.eCodepoint 8364) := by rfl

/-- `"Hi"` and a partial byte. -/
theorem test_bits_to_text :
    bitsToText (toBits (0x4869 : BitVec 16) ++ [true, false, true]) = [72, 105] := by decide

/-- `"DeadBEEF"`. -/
theorem test_hex : (hexToBits [68, 101, 97, 100, 66, 69, 69, 70]).bind bitsToHex
    = some [100, 101, 97, 100, 98, 101, 101, 102] := by decide

/-- `"ab cd"` and `"123456789"`. -/
theorem test_keys : (keyFromText [97, 98, 32, 99, 100]).toOption = some 0x6162206364202020 ∧
    (keyFromText [49, 50, 51, 52, 53, 54, 55, 56, 57]).toOption = some 0x3132333435363738 := by decide +kernel

/-- `cleanHex("0xAB g1")` and `cleanHex("abc")`. -/
theorem test_clean_hex : cleanHex [48, 120, 65, 66, 32, 103, 49] = [48, 65, 66, 49] ∧ cleanHex [97, 98, 99] = [97, 98, 99, 48] := by
  decide

theorem test_sanitize :
    sanitize (message [0x00, 0x01, 0x08, 0x09, 0x0a, 0x0b, 0x0c, 0x0d, 0x0e, 0x1f, 0x20, 0x41, 0x7f, 0x80, 0xff])
      = message [0x09, 0x0a, 0x0d, 0x20, 0x41, 0x7f, 0x80, 0xff] := by decide

/-- The result of a pseudo-operation. -/
def result {α : Type} (o : Host.Outcome (State × Except Error α) Fault Refusal) : Option α :=
  match o with
  | .next (_, .ok r) => some r
  | _ => none

/-- ENCRYPT of `"hello"` under `"key1"`, `"longerthan8chars"`, `"12345678"`, padded: row 1. -/
theorem test_encrypt : (result (encrypt [104, 101, 108, 108, 111] [107, 101, 121, 49]
      [108, 111, 110, 103, 101, 114, 116, 104, 97, 110, 56] [49, 50, 51, 52, 53, 54, 55, 56] true State.reset)).map
      (fun r => (r.cipherHex, r.paddingWasNeeded, r.wasBlockAligned, r.cipherHexSingleBlockUnpadded))
    = some ([97, 54, 48, 97, 98, 49, 53, 56, 99, 56, 55, 102, 53, 54, 52, 54], true, false, none) := by decide +kernel

/-- DECRYPT of `" A60A-b158czz:87f5646\n"` under `"key1"`, `"longerthan8chars"`, `"12345678"`: `"hello"`. -/
theorem test_decrypt : result (decrypt
      [32, 65, 54, 48, 65, 45, 98, 49, 53, 56, 99, 122, 122, 58, 56, 55, 102, 53, 54, 52, 54, 10]
      [107, 101, 121, 49] [108, 111, 110, 103, 101, 114, 116, 104, 97, 110, 56] [49, 50, 51, 52, 53, 54, 55, 56] true
      State.reset) = some [104, 101, 108, 108, 111] := by decide +kernel

/-! ### Sequencer: program 3's block and keys, in both directions -/

theorem test_sequencer_ede :
    ((Engine.start [0x5468652071756663]).run .ede 0x0123456789abcdef 0x23456789abcdef01 0x456789abcdef0123 48).out
      = [0xa826fd8ce53b855f] := by decide +kernel
theorem test_sequencer_ded :
    ((Engine.start [0xa826fd8ce53b855f]).run .ded 0x0123456789abcdef 0x23456789abcdef01 0x456789abcdef0123 48).out
      = [0x5468652071756663] := by decide +kernel

/-! ### Witnesses for the obligations that have hypotheses -/

/-- A block with the given host actions pending. -/
def pending (acts : List HostAction) : State := { State.reset with host := acts }

theorem witness_EncodeAndDecodeAgree : decode 0x1A = .ok (.mdec true) ∧ decode 0x01 = .ok .subst := by decide

theorem witness_StepRunsDecodedCommand :
    (pending [.cmd 0x05, .rd .DO]).host = .cmd 0x05 :: [.rd .DO] ∧ decode 0x05 = .ok .desenc := ⟨rfl, by decide⟩

theorem witness_IllegalCommandTakesEIllop :
    (pending [.cmd 0x00]).host = [.cmd 0x00] ∧ 0x00 ∉ legalWords ∧ (0x0B : BitVec 8) ∉ legalWords ∧
      (0x18 : BitVec 8) ∉ legalWords ∧ (0x20 : BitVec 8) ∉ legalWords := ⟨rfl, by decide, by decide, by decide, by decide⟩

theorem witness_IdleStepHoldsState : State.reset.host = [] := rfl

/-- Section 2.4, first row: the half-block after E, XOR the subkey. -/
theorem witness_FfuncExpandsSubstitutesPermutes :
    ∀ i < 8, ∀ j < 6, bitAt (0x6117ba866527 : Sub48) (6 * i + j + 1)
      = Bool.xor (bitAt (0xcc00ccfff0aaf0aa : Block64) (32 + ((4 * i + j + 31) % 32 + 1)))
          (bitAt (0x1b02effc7072 : Sub48) (6 * i + j + 1)) := by decide +kernel

/-- Section 2.5's key and block. -/
def desState : State := { State.reset with K1 := 0x133457799bbcdff1, DI := 0x0123456789abcdef }

/-- The state after KSCHED. -/
def scheduled : State := complete (desState.writeSK (generateSubkeys desState.K1)) 0

/-- The states after ROUND commands with `DO` copied to `DI`. -/
def roundChain (order : Fin 16 → Fin 16) : Nat → State
  | 0 => { scheduled with DI := permute desState.DI tableIP }
  | n + 1 =>
    match exec .round { roundChain order n with X := scheduled.SK[order (Fin.ofNat 16 n)] } with
    | .next v => { v with DI := v.DO }
    | _ => State.reset

/-- The state after the ROUND command with number `n + 1` of the chain, before `DO` is copied. -/
def afterRound (order : Fin 16 → Fin 16) (n : Nat) : State :=
  match exec .round { roundChain order n with X := scheduled.SK[order (Fin.ofNat 16 n)] } with
  | .next v => v
  | _ => State.reset

/-- Both orders of DesencIsSixteenRoundCommands and its reverse. -/
theorem witness_DesencIsSixteenRoundCommands (order : Fin 16 → Fin 16) :
    exec .ksched desState = .next scheduled ∧
    roundChain order 0 = { scheduled with DI := permute desState.DI tableIP } ∧
    ∀ n : Fin 16, exec .round { roundChain order n with X := scheduled.SK[order n] } = .next (afterRound order n) ∧
      roundChain order (n + 1) = { afterRound order n with DI := (afterRound order n).DO } := by
  refine ⟨rfl, rfl, fun n => ?_⟩
  have hn : Fin.ofNat 16 n.val = n := Fin.ext (Nat.mod_eq_of_lt n.isLt)
  constructor
  · simp only [afterRound, hn]
    rfl
  · simp only [roundChain, afterRound]
    rfl

/-- Section 2.3: the text keys "12345678" and "03254769" differ in ignored positions only. -/
theorem witness_KeyParityPositionsIgnored :
    sameKeyBits (0x3132333435363738 : Key64) 0x3033323534373639 ∧ (0x3132333435363738 : Key64) ≠ 0x3033323534373639 := by
  refine ⟨fun p h1 h2 h3 => ?_, by decide⟩
  have h : ∀ p < 65, 1 ≤ p → p % 8 ≠ 0 →
      bitAt (0x3132333435363738 : Key64) p = bitAt (0x3033323534373639 : Key64) p := by decide +kernel
  exact h p (by omega) h1 h3

theorem witness_EqualKeysCollapseToSingleDes :
    (tripleState 0).K1 ≠ (tripleState 0).K2 ∧
    { tripleState 0 with K2 := 0x0123456789abcdef }.K1 = { tripleState 0 with K2 := 0x0123456789abcdef }.K2 ∧
    { tripleState 0 with K2 := 0x456789abcdef0123 }.K2 = { tripleState 0 with K2 := 0x456789abcdef0123 }.K3 := by decide

theorem witness_frames : (Instr.ffunc = .subst ∨ Instr.ffunc = .ffunc) ∧
    (Instr.tdec = .round ∨ Instr.tdec = .desenc ∨ Instr.tdec = .desdec ∨ Instr.tdec = .tenc ∨ Instr.tdec = .tdec) := by
  decide

/-- MessageOperationsFrame, MessageStatusFields: a full buffer of one block. -/
theorem witness_MessageOperationsFrame : ∃ (i : Instr) (p : Bool) (s : State), (i = .menc p ∨ i = .mdec p) ∧
    fitsCapacity s.cfg s.MILEN = true ∧ s.MILEN = 8 ∧ i = .menc true :=
  ⟨.menc true, true, { withBlocks 1 with MILEN := 8 }, .inl rfl, by decide, rfl, rfl⟩

/-- ComparisonResultIsFirstBlock, MencEncryptsEachBlock, MdecDecryptsEachBlock, MdecPStripsExactlyThePadding. -/
theorem witness_ComparisonResultIsFirstBlock : ∃ s : State, fitsCapacity s.cfg s.MILEN = true ∧ s.MILEN = 8 ∧ 8 * 0 < s.MILEN :=
  ⟨{ withBlocks 1 with MILEN := 8 }, by decide, rfl, by decide⟩

theorem witness_EqualBlocksGiveEqualBlocks : ∃ s s' : State, fitsCapacity s.cfg s.MILEN = true ∧
    fitsCapacity s'.cfg s'.MILEN = true ∧ s.K1 = s'.K1 ∧ s.K2 = s'.K2 ∧ s.K3 = s'.K3 ∧ s.MILEN ≠ s'.MILEN ∧
    blockAt (preparedByte true s) 0 = blockAt (preparedByte false s') 1 :=
  ⟨messageState [], messageState [0x41, 8, 8, 8, 8, 8, 8, 8, 8, 8, 8, 8, 8, 8, 8, 8], by decide, by decide, rfl, rfl, rfl,
    by decide, by decide⟩

theorem witness_PaddingAddsWholeBlockToAlignedMessage : ∃ s : State, fitsCapacity s.cfg s.MILEN = true ∧ s.MILEN % 8 = 0 ∧
    s.MILEN ≠ 0 := ⟨{ withBlocks 2 with MILEN := 16 }, by decide, by decide, by decide⟩

theorem witness_PaddedMessageRoundTrip : ∃ s : State, fitsCapacity s.cfg (8 * (s.MILEN / 8 + 1)) = true ∧ s.MILEN = 15 :=
  ⟨{ withBlocks 2 with MILEN := 15 }, by decide, rfl⟩

theorem witness_UnpaddedRoundTripKeepsNullFill : ∃ s : State, fitsCapacity s.cfg (8 * ((s.MILEN + 7) / 8)) = true ∧ s.MILEN = 9 :=
  ⟨{ withBlocks 2 with MILEN := 9 }, by decide, rfl⟩

theorem witness_OversizeMessageTakesECap : ∃ (i : Instr) (p : Bool) (s : State) (k : Nat), (i = .menc p ∨ i = .mdec p) ∧
    s.cfg.capacityBlocks = some k ∧ 8 * k < s.MILEN :=
  ⟨.mdec false, false, { withBlocks 2 with MILEN := 17 }, 2, .inr rfl, rfl, by decide⟩

theorem witness_OverlongWriteThenMencTakesECap : ∃ (s : State) (k : Nat) (bs : List Byte) (p : Bool),
    s.cfg.capacityBlocks = some k ∧ 8 * k < bs.length ∧ s.host = [.wrm bs, .cmd (encode (.menc p))] :=
  ⟨{ withBlocks 1 with host := [.wrm (List.replicate 9 0x61), .cmd (encode (.menc true))] }, 1, List.replicate 9 0x61, true,
    rfl, by decide, rfl⟩

/-- The two states differ in every result register, and have a message. -/
theorem witness_NoHiddenState (i : Instr) : agreeOnReads i (messageState [0x61])
    { messageState [0x61] with DO := 1, Y := 1, SB := 1, STATUS := 0x30, MOLEN := 3, SK := Vector.replicate 16 1 } := by
  cases i <;> first
    | exact rfl
    | exact ⟨rfl, rfl⟩
    | exact ⟨rfl, rfl, rfl, rfl⟩
    | exact ⟨rfl, rfl, fun _ _ => rfl, rfl, rfl, rfl⟩

/-- A state whose buffers list bytes up to the last address they have, with a command pending. -/
def invState : State :=
  { withBlocks 1 with
    MI := [(0, 1), (7, 2)], MILEN := 8, MO := [(0, 3), (15, 4)], MOLEN := 1, STATUS := 0x06, host := [.cmd 0x02] }

theorem witness_StepKeepsInvariant : invState.Inv ∧ ∃ t, step invState = .next t :=
  ⟨⟨by decide, by decide, by simp [withinCapacity, invState, withBlocks, fitsCapacity],
      by simp [withinOutCapacity, invState, withBlocks, fitsOutCapacity],
      by intro a ha; obtain rfl : a = 0 := Nat.lt_one_iff.1 ha; rfl, by decide, by decide, rfl⟩, _, rfl⟩

/-- Each kind of write; the byte write at the last address `MI` has and at the first it has not. -/
theorem witness_HostWriteSetsOneRegister : (pending [.wr (.K1 1)]).host = [.wr (.K1 1)] ∧
    (pending [.wrMilen 5]).host = [.wrMilen 5] ∧
    { withBlocks 1 with host := [.wrMi 7 0x61] }.host = [.wrMi 7 0x61] ∧
    { withBlocks 1 with host := [.wrMi 8 0x61] }.host = [.wrMi 8 0x61] ∧
    fitsCapacity (withBlocks 1).cfg (7 + 1) = true ∧ fitsCapacity (withBlocks 1).cfg (8 + 1) = false := by decide

theorem witness_ResetValuesAreZero : (pending [.reset, .rd .DO]).host = .reset :: [.rd .DO] := rfl

/-- A message one byte longer than the buffer: its last address, and the first that is not there. -/
theorem witness_HostMessageWriteStoresBytes : ∃ (s : State) (bs : List Byte), s.host = [.wrm bs] ∧
    7 < bs.length ∧ fitsCapacity s.cfg (7 + 1) = true ∧ fitsCapacity s.cfg (8 + 1) = false :=
  ⟨{ withBlocks 1 with host := [.wrm (List.replicate 9 0x61)] }, List.replicate 9 0x61, rfl, by decide, by decide, by decide⟩

theorem witness_RegisterReadHasNoSideEffect : (pending [.rd (.SK 15)]).host = [.rd (.SK 15)] ∧
    registerValue (.SK 15) State.reset = some (.bits48 0) := ⟨rfl, by decide⟩

/-- Each clause at the last byte of a full buffer. -/
theorem witness_BufferReadReturnsMessageBytes :
    ({ withBlocks 1 with MILEN := 8, host := [.rd (.miByte 7)] }.host = [.rd (.miByte 7)] ∧ 7 < 8 ∧
      fitsCapacity (withBlocks 1).cfg 8 = true) ∧
    ({ withBlocks 1 with MOLEN := 16, host := [.rd (.moByte 15)] }.host = [.rd (.moByte 15)] ∧ 15 < 16 ∧
      fitsOutCapacity (withBlocks 1).cfg 16 = true) ∧
    ({ withBlocks 1 with MILEN := 8, host := [.rd .MI] }.host = [.rd .MI]) ∧
    ({ withBlocks 1 with MOLEN := 16, host := [.rd .MO] }.host = [.rd .MO]) := by decide

theorem witness_CommandRegisterReadIsRefused : (pending [.rd .CMD]).host = [.rd .CMD] := rfl

theorem witness_RotationMovesEveryPosition : (1 ≤ 1 ∧ 1 ≤ 28) ∧ 1 ≤ 28 ∧ 28 ≤ 28 ∧ (27 : Fin 28).val = 27 := by decide

theorem witness_untyped_lengths : ([true, false] : Bits).length = ([false, true] : Bits).length ∧
    ([true] : Bits).length ≠ ([] : Bits).length ∧ (List.replicate 63 true).length ≠ 64 ∧
    (List.replicate 64 true).length = 64 ∧ (List.replicate 56 true).length ≠ 64 := by decide

/-- Both clauses of HexDigitsRoundTripLowercase, at the ends of the three ranges of digits. -/
theorem witness_HexDigitsRoundTripLowercase : ([true, false, true, true] : Bits).length % 4 = 0 ∧
    ∀ c ∈ ([48, 57, 65, 70, 97, 102] : Text), (48 ≤ c ∧ c ≤ 57) ∨ (65 ≤ c ∧ c ≤ 70) ∨ (97 ≤ c ∧ c ≤ 102) := by decide

theorem witness_TextConversionRejectsWideCharacters : allSingleByte [0, 255] ∧ ¬ allSingleByte [256] := by
  unfold allSingleByte
  decide

/-- EncryptReportsTheCommand, DecryptAcceptsAnyHex: a full buffer and one byte more; single-byte characters up to 255; a key
longer than 8 characters whose wide character is cut off. -/
theorem witness_EncryptReportsTheCommand :
    fitsCapacity (withBlocks 1).cfg ([104, 101, 108, 108, 111, 33, 33, 255] : Text).length = true ∧
    fitsCapacity (withBlocks 1).cfg ([104, 101, 108, 108, 111, 33, 33, 255, 33] : Text).length = false ∧
    allSingleByte [104, 101, 108, 108, 111, 33, 33, 255] ∧ allSingleByte [104, 101, 108, 108, 111, 33, 33, 255, 33] ∧
    allSingleByte (([] : Text).take 8) ∧ allSingleByte (([49, 50, 51, 52, 53, 54, 55, 56, 8364] : Text).take 8) := by
  unfold allSingleByte
  decide

/-- The ciphertext of 8 characters fills two blocks with padding and one without. -/
theorem witness_DecryptUndoesEncryptUpToFilter : fitsCapacity (withBlocks 2).cfg (preparedLength true 8) = true ∧
    fitsCapacity (withBlocks 1).cfg (preparedLength false 8) = true := by decide

theorem witness_EncryptRejectsFirstWideCharacter :
    (([49] : Text).take 8 ++ ([256] : Text).take 8 ++ ([300] : Text).take 8 ++ [400]).find? (fun x => 255 < x) = some 256 := by
  decide

/-- A wide character in the third key; and 15 and 17 digits among other characters, for a buffer of 8 bytes. -/
theorem witness_DecryptAcceptsAnyHex :
    (([49] : Text).take 8 ++ ([50] : Text).take 8 ++ ([300] : Text).take 8).find? (fun x => 255 < x) = some 300 ∧
    fitsCapacity (withBlocks 1).cfg ((hexDigitCount (List.replicate 15 70 ++ [71, 32]) + 1) / 2) = true ∧
    fitsCapacity (withBlocks 1).cfg ((hexDigitCount (List.replicate 17 102 ++ [8364]) + 1) / 2) = false := by decide

/-- SequencerVisitsRoundsInOrder at the last round of a message of two blocks. -/
theorem witness_SequencerVisitsRoundsInOrder : 95 < 48 * ([0, 1] : List Block64).length := by decide

end Sys2Proof.Tests
end

section
/-! PROOFS. Every step keeps the invariant of the block (10_state.md R14, R18, R20, R21): one lemma per update of the
state, then along `exec_cases`, `runCommand_cases`, `serve_cases` and `step_cases`. -/

namespace Sys2Proof.Machine

/-! ### Capacities -/

/-- What fits, fits when it is shorter. -/
theorem fitsCapacity_of_le {cfg : Config} {m n : Nat} (hmn : m ≤ n) (hn : fitsCapacity cfg n = true) :
    fitsCapacity cfg m = true := by
  unfold fitsCapacity at *
  split at hn
  · rfl
  · simp only [decide_eq_true_eq] at *
    omega

theorem fitsOutCapacity_of_le {cfg : Config} {m n : Nat} (hmn : m ≤ n) (hn : fitsOutCapacity cfg n = true) :
    fitsOutCapacity cfg m = true := by
  unfold fitsOutCapacity at *
  split at hn
  · rfl
  · simp only [decide_eq_true_eq] at *
    omega

/-- The output of a message that fits `MI` fits `MO`, which is one block larger (10_state.md R18). -/
theorem fitsOutCapacity_of_fitsCapacity {cfg : Config} {n : Nat} (h : fitsCapacity cfg n = true) :
    fitsOutCapacity cfg (8 * (n / 8 + 1)) = true := by
  unfold fitsCapacity at h
  unfold fitsOutCapacity
  split at h
  · rfl
  · simp only [decide_eq_true_eq] at *
    omega

/-- The bytes of a `WRM` that are held fit (log 4). -/
theorem fitsCapacity_heldBytes_length (cfg : Config) (bs : List Byte) :
    fitsCapacity cfg (heldBytes cfg bs).length = true := by
  unfold fitsCapacity heldBytes
  split <;> simp

theorem withinCapacity_write {cfg : Config} {m : Memory} {addr : Nat} (b : Byte) (hm : withinCapacity cfg m)
    (hf : fitsCapacity cfg (addr + 1) = true) : withinCapacity cfg (Memory.write m addr b) := by
  intro c hc
  rcases Memory.mem_write hc with hc | hc
  · rwa [hc]
  · exact hm c hc

theorem withinCapacity_writeBytes {cfg : Config} {m : Memory} {bs : List Byte} (hm : withinCapacity cfg m)
    (hf : fitsCapacity cfg bs.length = true) : withinCapacity cfg (Memory.writeBytes m 0 bs) := by
  intro c hc
  rcases Memory.mem_writeBytes hc with ⟨_, hlt⟩ | hc
  · exact fitsCapacity_of_le (by omega) hf
  · exact hm c hc

theorem withinOutCapacity_writeBytes {cfg : Config} {m : Memory} {bs : List Byte} (hm : withinOutCapacity cfg m)
    (hf : fitsOutCapacity cfg bs.length = true) : withinOutCapacity cfg (Memory.writeBytes m 0 bs) := by
  intro c hc
  rcases Memory.mem_writeBytes hc with ⟨_, hlt⟩ | hc
  · exact fitsOutCapacity_of_le (by omega) hf
  · exact hm c hc

/-! ### Status values -/

theorem statusLegal_zero : statusLegal 0x00 = true := by decide

/-- R126, R130: `SBVALID` goes with a message of 8 bytes, which is aligned. -/
theorem statusLegal_messageStatus {n : Nat} {sbv : Bool} (h : sbv = true → n = 8) :
    statusLegal (messageStatus n sbv) = true := by
  cases sbv with
  | true => rw [h rfl]; decide
  | false =>
    unfold messageStatus
    cases messageAligned n <;> decide

/-! ### The invariant, update by update -/

namespace State.Inv

/-- The invariant looks at the buffers, `MOLEN`, `STATUS`, `SEQ` and the capacity only, and of `STATUS` only that it is
legal. -/
theorem of_same_buffers {s t : State} (h : s.Inv) (hMI : t.MI = s.MI) (hMO : t.MO = s.MO) (hMOLEN : t.MOLEN = s.MOLEN)
    (hcfg : t.cfg = s.cfg) (hSEQ : t.SEQ = s.SEQ) (hst : statusLegal t.STATUS = true) : t.Inv where
  miCanonical := hMI ▸ h.miCanonical
  moCanonical := hMO ▸ h.moCanonical
  miWithin := hcfg ▸ hMI ▸ h.miWithin
  moWithin := hcfg ▸ hMO ▸ h.moWithin
  moHeld := hMO ▸ hMOLEN ▸ h.moHeld
  moFits := hcfg ▸ hMOLEN ▸ h.moFits
  status := hst
  seqIdle := hSEQ ▸ h.seqIdle

theorem withHost {s : State} (h : s.Inv) (acts : List HostAction) : (s.withHost acts).Inv :=
  h.of_same_buffers rfl rfl rfl rfl rfl h.status

theorem withReply {s : State} (h : s.Inv) (r : Reply) : (s.withReply r).Inv :=
  h.of_same_buffers rfl rfl rfl rfl rfl h.status

theorem writeRegister {s : State} (h : s.Inv) (w : RegWrite) : (writeRegister w s).Inv := by
  cases w <;> exact h.of_same_buffers rfl rfl rfl rfl rfl h.status

/-- Of the errors only `E_ILLOP` and `E_CAP` reach `STATUS` (60_exceptions.md R151, R152). -/
theorem raise {s : State} (h : s.Inv) {e : Error} (he : e.code = 3 ∨ e.code = 4) : (raise s e).Inv := by
  refine h.of_same_buffers rfl rfl rfl rfl rfl ?_
  rw [raise_STATUS]
  rcases he with he | he <;> rw [he] <;> decide

theorem writeMiByte {s : State} (h : s.Inv) {addr : Nat} (b : Byte) (hf : fitsCapacity s.cfg (addr + 1) = true) :
    (s.writeMiByte addr b).Inv :=
  { h with
    miCanonical := Memory.write_wf addr b h.miCanonical
    miWithin := withinCapacity_write b h.miWithin hf }

theorem writeMessageIn {s : State} (h : s.Inv) (bs : List Byte) : (s.writeMessageIn bs).Inv :=
  { h with
    miCanonical := Memory.writeBytes_wf 0 _ h.miCanonical
    miWithin := withinCapacity_writeBytes h.miWithin (fitsCapacity_heldBytes_length s.cfg bs) }

theorem writeMessageOut {s : State} (h : s.Inv) {out : List Byte} (hf : fitsOutCapacity s.cfg out.length = true) :
    (s.writeMessageOut out).Inv :=
  { h with
    moCanonical := Memory.writeBytes_wf 0 _ h.moCanonical
    moWithin := withinOutCapacity_writeBytes h.moWithin hf
    moHeld := fun a (ha : a < out.length) => by simp [Memory.read?_writeBytes, ha]
    moFits := hf }

/-- Empty buffers meet the invariant whatever the capacity is. -/
theorem resetNow (s : State) : (resetNow s).Inv where
  miCanonical := rfl
  moCanonical := rfl
  miWithin := fun _ hc => nomatch hc
  moWithin := fun _ hc => nomatch hc
  moHeld := fun _ ha => nomatch ha
  moFits := by
    show fitsOutCapacity s.cfg 0 = true
    unfold fitsOutCapacity
    split <;> simp
  status := statusLegal_zero
  seqIdle := rfl

end State.Inv

/-! ### The invariant along a step -/

/-- Every operation keeps the invariant; the message operations because their output fits `MO`. -/
theorem exec_keeps_inv {i : Instr} {s t : State} (h : s.Inv) (ht : exec i s = .next t) : t.Inv := by
  rcases exec_cases i s with ⟨v, he⟩ | ⟨v, he⟩ | ⟨v, he⟩ | ⟨out, sb, sbv, hf, hlen, hsb, he⟩ | ⟨_, he⟩ <;>
    obtain rfl := Host.Outcome.next.inj (he.symm.trans ht)
  · exact h.of_same_buffers rfl rfl rfl rfl rfl statusLegal_zero
  · exact h.of_same_buffers rfl rfl rfl rfl rfl statusLegal_zero
  · exact h.of_same_buffers rfl rfl rfl rfl rfl statusLegal_zero
  · have hout : fitsOutCapacity s.cfg out.length = true :=
      fitsOutCapacity_of_le hlen (fitsOutCapacity_of_fitsCapacity hf)
    exact (h.writeMessageOut hout).of_same_buffers rfl rfl rfl rfl rfl (statusLegal_messageStatus hsb)
  · exact h.raise (.inr rfl)

theorem runCommand_keeps_inv {c : BitVec 8} {s t : State} (h : s.Inv) (ht : runCommand c s = .next t) : t.Inv := by
  rcases runCommand_cases c s with ⟨i, _, hr⟩ | ⟨e, _, hr⟩
  · exact exec_keeps_inv h (hr ▸ ht)
  · obtain rfl := Host.Outcome.next.inj (hr.symm.trans ht)
    exact h.raise (.inl rfl)

theorem serve_keeps_inv {a : HostAction} {s t : State} (h : s.Inv) (ht : serve a s = .next t) : t.Inv := by
  rcases serve_cases ht with ⟨w, _, rfl⟩ | ⟨bs, _, rfl⟩ | ⟨addr, b, _, hf, rfl⟩ | ⟨n, _, rfl⟩ | ⟨c, _, hc⟩ |
    ⟨p, v, _, _, rfl⟩ | ⟨_, rfl⟩
  · exact (h.writeRegister w).withReply _
  · exact (h.writeMessageIn bs).withReply _
  · exact (h.writeMiByte b hf).withReply _
  · exact h.of_same_buffers rfl rfl rfl rfl rfl h.status
  · exact runCommand_keeps_inv h hc
  · exact h.withReply _
  · exact State.Inv.resetNow s

/-- Settles O41: along the inversion lemmas of a step, each update of the state keeps the invariant. -/
theorem stepKeepsInvariant : Obligations.StepKeepsInvariant := by
  intro s t h ht
  rcases step_cases s with ⟨_, hs⟩ | ⟨a, rest, _, hs⟩
  · obtain rfl := Host.Outcome.next.inj (hs.symm.trans ht)
    exact h
  · exact serve_keeps_inv (h.withHost rest) (hs ▸ ht)

/-- Settles O42: the buffers are empty, and `STATUS` is 0x00. -/
theorem resetMeetsInvariant : Obligations.ResetMeetsInvariant :=
  (State.Inv.resetNow State.reset).of_same_buffers rfl rfl rfl rfl rfl statusLegal_zero

end Sys2Proof.Machine
end

section
/-! PROOFS. What a step does with the host's actions (10_state.md R10, R11, R13, R18, R19). -/

namespace Sys2Proof.Machine

open Sys2Proof.Spec

/-! ### Decoding and stepping -/

/-- 30_encoding.md R52: the word of an operation decodes to it. -/
theorem decode_encode (i : Instr) : decode (encode i) = .ok i := by
  cases i with
  | menc p => cases p <;> rfl
  | mdec p => cases p <;> rfl
  | _ => rfl

@[simp] theorem tableWordByte_toNat (c : BitVec 8) : tableWordByte 8 c.toNat = c := by
  rw [tableWordByte, Nat.mod_eq_of_lt c.isLt, BitVec.ofNat_toNat, BitVec.setWidth_eq]

theorem decodeTableWord_toNat (c : BitVec 8) : decodeTableWord 8 c.toNat = (decode c).toOption := by
  have hc : c.toNat < 256 := c.isLt
  simp [decodeTableWord, Nat.mod_eq_of_lt hc, hc]

theorem runCommand_of_decode {c : BitVec 8} {i : Instr} (h : decode c = .ok i) (s : State) : runCommand c s = exec i s := by
  simp only [runCommand, h]

/-- Settles O4: the step serves the `CMD` write, which runs what its word decodes to. -/
theorem stepRunsDecodedCommand : Obligations.StepRunsDecodedCommand := by
  intro s c rest i hs hc
  calc step s = serve (.cmd c) (s.withHost rest) := step_of_pending hs
    _ = exec i { s with host := rest } := runCommand_of_decode hc _

/-- Settles O5: the word placed is the one `encode` gives, and taking the action off leaves the queue as it was. -/
theorem fetchedWordRuns : Obligations.FetchedWordRuns := by
  intro s i
  refine ⟨by rw [decodeTableWord_toNat, decode_encode]; rfl, ?_⟩
  have hs : (s.withFetchWord 8 (encode i).toNat).host = .cmd (encode i) :: s.host := by
    simp [State.withFetchWord, pushCommand]
  exact stepRunsDecodedCommand _ _ _ i hs (decode_encode i)

/-! ### Host accesses -/

theorem miByte_writeMiByte_same (s : State) (addr : Nat) (b : Byte) : miByte (s.writeMiByte addr b) addr = b := by
  simp [miByte]

theorem miByte_writeMiByte_other (s : State) {addr a : Nat} (b : Byte) (h : a ≠ addr) :
    miByte (s.writeMiByte addr b) a = miByte s a := by
  simp [miByte, Memory.read?_write_other _ _ h]

/-- What a write of `MI` or of `MILEN` can change is not in `sameButMessageIn`. -/
theorem sameButMessageIn_withMessageIn (s : State) (mi : Memory) (n draw : Nat) (acts : List HostAction) (r : Reply) :
    sameButMessageIn s { s with MI := mi, MILEN := n, draw := draw, host := acts, reply := r } :=
  ⟨⟨rfl, fun _ => rfl⟩, rfl, rfl, rfl, rfl, rfl, rfl, rfl, rfl, rfl, rfl, rfl, rfl⟩

theorem step_of_readPort {s : State} {p : ReadPort} {v : ReadValue} {rest : List HostAction} (hs : s.host = .rd p :: rest)
    (hp : readPort p (s.withHost rest) = .next v) : step s = .next { s with host := rest, reply := .read v } := by
  rw [step_of_pending hs, serve, hp]
  rfl

/-- `registerValue` is what the port of a register or of a `STATUS` field returns, whatever the queue is. -/
theorem readPort_of_registerValue {p : ReadPort} {s : State} {v : ReadValue} (h : registerValue p s = some v)
    (rest : List HostAction) : readPort p (s.withHost rest) = .next v := by
  cases p <;> cases h <;> rfl

/-- Settles O44: each write is served by the update of its own register or byte. -/
theorem hostWriteSetsOneRegister : Obligations.HostWriteSetsOneRegister := by
  intro s rest
  refine ⟨fun w hs => ?_, fun n hs => ?_, fun addr b hs => ⟨fun hf => ?_, fun hf => ?_⟩⟩
  · rw [step_of_pending hs]
    cases w <;> rfl
  · exact ⟨_, step_of_pending hs, rfl, fun _ => rfl, sameButMessageIn_withMessageIn s _ _ _ _ _, rfl⟩
  · refine ⟨((s.withHost rest).writeMiByte addr b).withReply .completed, ?_, miByte_writeMiByte_same _ addr b,
      fun a ha => miByte_writeMiByte_other _ b ha, rfl, sameButMessageIn_withMessageIn s _ _ _ _ _, rfl⟩
    rw [step_of_pending hs]
    exact if_pos hf
  · rw [step_of_pending hs]
    exact if_neg (by simp [hf])

/-- Settles O46: the port returns the register's value, and serving a read changes the reply only. -/
theorem registerReadHasNoSideEffect : Obligations.RegisterReadHasNoSideEffect :=
  fun _ _ _ rest hs hv => step_of_readPort hs (readPort_of_registerValue hv rest)

/-- Settles O48: `CMD` has no read port. -/
theorem commandRegisterReadIsRefused : Obligations.CommandRegisterReadIsRefused :=
  fun _ _ hs => step_of_pending hs

end Sys2Proof.Machine
end

section
/-! PROOFS. What the operations read, write and leave unchanged (10_state.md R12, R22, R23). -/

namespace Sys2Proof.Machine

open Sys2Proof.Spec

/-! ### Frames -/

/-- No operation writes what `sameOperands` names: each writes a result register, the message result or `STATUS`. -/
theorem exec_sameOperands {i : Instr} {s t : State} (ht : exec i s = .next t) : sameOperands s t := by
  rcases exec_cases i s with ⟨v, he⟩ | ⟨v, he⟩ | ⟨v, he⟩ | ⟨out, sb, sbv, _, _, _, he⟩ | ⟨_, he⟩ <;>
    obtain rfl := Host.Outcome.next.inj (he.symm.trans ht) <;>
    exact ⟨rfl, rfl, rfl, rfl, rfl, rfl, rfl, rfl, rfl, fun _ => rfl⟩

theorem exec_completes (i : Instr) (s : State) : ∃ t, exec i s = .next t := by
  rcases exec_cases i s with ⟨v, he⟩ | ⟨v, he⟩ | ⟨v, he⟩ | ⟨out, sb, sbv, _, _, _, he⟩ | ⟨_, he⟩ <;> exact ⟨_, he⟩

theorem sameMessageOut_of_eq {s t : State} (hMOLEN : t.MOLEN = s.MOLEN) (hMO : t.MO = s.MO)
    (hpow : t.powerUp = s.powerUp) : sameMessageOut s t :=
  ⟨hMOLEN, fun a => by rw [moByte, moByte, hMO, hpow]⟩

/-- Settles O24: the two operations write `Y` and complete. -/
theorem substFfuncFrame : Obligations.SubstFfuncFrame := by
  intro i s hi
  have hv : ∃ v, exec i s = .next (complete (s.writeY v) 0x00) := by
    rcases hi with rfl | rfl <;> exact ⟨_, rfl⟩
  obtain ⟨v, he⟩ := hv
  exact ⟨_, he, exec_sameOperands he, sameMessageOut_of_eq rfl rfl rfl, rfl, rfl, rfl, rfl⟩

/-- Settles O25: KSCHED writes `SK` and completes. -/
theorem kschedFrame : Obligations.KschedFrame :=
  fun _ => ⟨_, rfl, exec_sameOperands (i := .ksched) rfl, sameMessageOut_of_eq rfl rfl rfl, rfl, rfl, rfl, rfl⟩

/-- Settles O26: the five operations write `DO` and complete. -/
theorem dataOutOperationsFrame : Obligations.DataOutOperationsFrame := by
  intro i s hi
  have hv : ∃ v, exec i s = .next (complete (s.writeDO v) 0x00) := by
    rcases hi with rfl | rfl | rfl | rfl | rfl <;> exact ⟨_, rfl⟩
  obtain ⟨v, he⟩ := hv
  exact ⟨_, he, exec_sameOperands he, sameMessageOut_of_eq rfl rfl rfl, rfl, rfl, rfl, rfl⟩

@[simp] theorem moByte_complete (s : State) (v : BitVec 8) (a : Nat) : moByte (complete s v) a = moByte s a := rfl

@[simp] theorem moByte_writeSB (s : State) (v : Block64) (a : Nat) : moByte (s.writeSB v) a = moByte s a := rfl

/-- A byte of `MO` at or beyond the output's length is as before (log 3). -/
theorem moByte_writeMessageOut_of_le {s : State} {out : List Byte} {a : Nat} (h : out.length ≤ a) :
    moByte (s.writeMessageOut out) a = moByte s a := by
  rw [moByte_writeMessageOut, if_neg (by omega)]

/-- R130: any MENC but MENC.P of 8 bytes leaves `SB`. -/
theorem comparisonResult_of_not_writes {p : Bool} {s : State} (h : ¬ (p = true ∧ s.MILEN = 8)) :
    comparisonResult p s = s.SB := by
  refine if_neg fun hw => h ?_
  simpa [writesComparison] using hw

/-- Settles O27: the output is written from address 0, and `SB` in the case of R130 only. -/
theorem messageOperationsFrame : Obligations.MessageOperationsFrame := by
  rintro i p s (rfl | rfl) hf
  · refine ⟨_, exec_menc_of_fits hf, exec_sameOperands (exec_menc_of_fits hf), fun a ha => ?_, rfl, rfl, rfl,
      fun hsb => comparisonResult_of_not_writes ?_⟩
    · rw [moByte_complete, moByte_writeSB, moByte_writeMessageOut_of_le ha]
    · rintro ⟨rfl, h8⟩
      exact hsb ⟨rfl, h8⟩
  · refine ⟨_, exec_mdec_of_fits hf, exec_sameOperands (exec_mdec_of_fits hf), fun a ha => ?_, rfl, rfl, rfl, fun _ => rfl⟩
    rw [moByte_complete, moByte_writeMessageOut_of_le ha]

/-! ### Parity positions -/

/-- R92, R96: PC1 reads none of the eight parity positions. -/
theorem tablePC1_skips_parity : ∀ t ∈ tablePC1.entries, t % 8 ≠ 0 := by decide

theorem permute_tablePC1_congr {k k' : Key64} (h : sameKeyBits k k') : permute k tablePC1 = permute k' tablePC1 := by
  refine eq_of_bitAt fun i hi => ?_
  have hlen : i < tablePC1.entries.length := by rw [tablePC1.length_eq]; exact hi
  have hmem : tablePC1.entries.getD i 0 ∈ tablePC1.entries := by
    rw [List.getD_eq_getElem _ _ hlen]
    exact List.getElem_mem hlen
  obtain ⟨h1, h64⟩ := tablePC1.inRange _ hmem
  rw [bitAt_permute _ _ hi, bitAt_permute _ _ hi]
  exact h _ h1 h64 (tablePC1_skips_parity _ hmem)

/-- R96: the subkeys see a key through PC1 only. -/
theorem subkeyList_congr {k k' : Key64} (h : sameKeyBits k k') : subkeyList k = subkeyList k' := by
  simp only [subkeyList, initialC, initialD, permute_tablePC1_congr h]

theorem generateSubkeys_congr {k k' : Key64} (h : sameKeyBits k k') : generateSubkeys k = generateSubkeys k' :=
  Vector.toArray_inj.1 (congrArg List.toArray (subkeyList_congr h))

theorem desBlock_congr {k k' : Key64} (h : sameKeyBits k k') (b : Block64) (o : SubkeyOrder) :
    desBlock b k o = desBlock b k' o := by
  have hk : subkeysInOrder k o = subkeysInOrder k' o := by
    cases o <;> simp only [subkeysInOrder, generateSubkeys_congr h]
  rw [desBlock, desBlock, hk]

section
variable {k1 k1' k2 k2' k3 k3' : Key64} (h1 : sameKeyBits k1 k1') (h2 : sameKeyBits k2 k2') (h3 : sameKeyBits k3 k3')
include h1 h2 h3

theorem tripleEncryptBlock_congr (b : Block64) : tripleEncryptBlock b k1 k2 k3 = tripleEncryptBlock b k1' k2' k3' := by
  simp only [tripleEncryptBlock, desEncryptBlock, desDecryptBlock, desBlock_congr h1, desBlock_congr h2, desBlock_congr h3]

theorem tripleDecryptBlock_congr (b : Block64) : tripleDecryptBlock b k1 k2 k3 = tripleDecryptBlock b k1' k2' k3' := by
  simp only [tripleDecryptBlock, desEncryptBlock, desDecryptBlock, desBlock_congr h1, desBlock_congr h2, desBlock_congr h3]

theorem encryptBlocks_congr (data : List Byte) : encryptBlocks data k1 k2 k3 = encryptBlocks data k1' k2' k3' := by
  simp only [encryptBlocks, tripleEncryptBlock_congr h1 h2 h3]

theorem decryptBlocks_congr (data : List Byte) : decryptBlocks data k1 k2 k3 = decryptBlocks data k1' k2' k3' := by
  simp only [decryptBlocks, tripleDecryptBlock_congr h1 h2 h3]

end

/-- A state with other keys. -/
def State.withKeys (s : State) (k1 k2 k3 : Key64) : State := { s with K1 := k1, K2 := k2, K3 := k3 }

theorem comparisonResult_withKeys {s : State} {k1 k2 k3 : Key64} (h1 : sameKeyBits s.K1 k1) (h2 : sameKeyBits s.K2 k2)
    (h3 : sameKeyBits s.K3 k3) (p : Bool) : comparisonResult p (s.withKeys k1 k2 k3) = comparisonResult p s := by
  unfold comparisonResult
  rw [tripleEncryptBlock_congr h1 h2 h3]
  rfl

/-- R12: an operation with keys that differ in parity positions only leaves the same state but for the keys. -/
theorem exec_withKeys {s : State} {k1 k2 k3 : Key64} (h1 : sameKeyBits s.K1 k1) (h2 : sameKeyBits s.K2 k2)
    (h3 : sameKeyBits s.K3 k3) (i : Instr) :
    ∃ t, exec i s = .next t ∧ exec i (s.withKeys k1 k2 k3) = .next (t.withKeys k1 k2 k3) := by
  cases i with
  | subst => exact ⟨_, rfl, rfl⟩
  | ffunc => exact ⟨_, rfl, rfl⟩
  | round => exact ⟨_, rfl, rfl⟩
  | ksched =>
    refine ⟨_, rfl, ?_⟩
    simp only [keyOperand, generateSubkeys_congr h1]
    rfl
  | desenc =>
    refine ⟨_, rfl, ?_⟩
    simp only [keyOperand, desEncryptBlock, desBlock_congr h1]
    rfl
  | desdec =>
    refine ⟨_, rfl, ?_⟩
    simp only [keyOperand, desDecryptBlock, desBlock_congr h1]
    rfl
  | tenc =>
    refine ⟨_, rfl, ?_⟩
    rw [tripleEncryptBlock_congr h1 h2 h3]
    rfl
  | tdec =>
    refine ⟨_, rfl, ?_⟩
    rw [tripleDecryptBlock_congr h1 h2 h3]
    rfl
  | menc p =>
    by_cases hf : fitsCapacity s.cfg s.MILEN = true
    · refine ⟨_, exec_menc_of_fits hf, ?_⟩
      rw [exec_menc_of_fits (s := s.withKeys k1 k2 k3) hf, comparisonResult_withKeys h1 h2 h3,
        encryptBlocks_congr h1 h2 h3]
      rfl
    · exact ⟨_, if_neg hf, if_neg hf⟩
  | mdec p =>
    by_cases hf : fitsCapacity s.cfg s.MILEN = true
    · refine ⟨_, exec_mdec_of_fits hf, ?_⟩
      rw [exec_mdec_of_fits (s := s.withKeys k1 k2 k3) hf, decryptBlocks_congr h1 h2 h3]
      rfl
    · exact ⟨_, if_neg hf, if_neg hf⟩

/-- Settles O20: every operation completes without writing a key, and sees a key through PC1 only. -/
theorem keyParityPositionsIgnored : Obligations.KeyParityPositionsIgnored := by
  refine ⟨fun i s => ?_, fun i s k1 k2 k3 h1 h2 h3 => exec_withKeys h1 h2 h3 i⟩
  obtain ⟨t, ht⟩ := exec_completes i s
  obtain ⟨hK1, hK2, hK3, _⟩ := exec_sameOperands ht
  exact ⟨t, ht, hK1, hK2, hK3⟩

/-! ### No hidden state -/

theorem messageOperand_congr {s s' : State} (hlen : s.MILEN = s'.MILEN) (hb : ∀ a < s.MILEN, miByte s a = miByte s' a) :
    messageOperand s = messageOperand s' := by
  rw [messageOperand, messageOperand, ← hlen]
  exact List.map_congr_left fun a ha => hb a (List.mem_range.1 ha)

@[simp] theorem sbValidOf_messageStatus (n : Nat) (b : Bool) : sbValidOf (messageStatus n b) = b := by
  unfold messageStatus
  cases b <;> cases messageAligned n <;> rfl

/-- R130: where `SB` is written it is a function of the message and the keys. -/
theorem comparisonResult_congr {p : Bool} {s s' : State} (hw : writesComparison p s.MILEN = true)
    (hlen : s.MILEN = s'.MILEN) (hb : ∀ a < s.MILEN, miByte s a = miByte s' a) (h1 : s.K1 = s'.K1) (h2 : s.K2 = s'.K2)
    (h3 : s.K3 = s'.K3) : comparisonResult p s = comparisonResult p s' := by
  have h8 : s.MILEN = 8 := by
    simp only [writesComparison, Bool.and_eq_true, beq_iff_eq] at hw
    exact hw.2
  rw [h8] at hb
  rw [comparisonResult, comparisonResult, if_pos hw, if_pos (hlen ▸ hw), h1, h2, h3, hb 0 (by omega), hb 1 (by omega),
    hb 2 (by omega), hb 3 (by omega), hb 4 (by omega), hb 5 (by omega), hb 6 (by omega), hb 7 (by omega)]

section
variable {i : Instr} {p : Bool} (hi : i = .menc p ∨ i = .mdec p)
include hi

/-- Two message operations with one output, one status and, where it is written, one `SB`. -/
theorem agreeOnWrites_message (s s' : State) {out : List Byte} {sb sb' : Block64} {n : Nat} {sbv : Bool}
    (hsb : sbv = true → sb = sb') :
    agreeOnWrites i (complete ((s.writeMessageOut out).writeSB sb) (messageStatus n sbv))
      (complete ((s'.writeMessageOut out).writeSB sb') (messageStatus n sbv)) := by
  have hout : ∀ a < out.length, moByte (s.writeMessageOut out) a = moByte (s'.writeMessageOut out) a := by
    intro a ha
    simp only [moByte_writeMessageOut, if_pos ha]
  rcases hi with rfl | rfl
  all_goals simpa [agreeOnWrites] using And.intro (fun _ => hout) hsb

/-- `E_CAP` writes no message result and no `SB`. -/
theorem agreeOnWrites_raise_eCap (s s' : State) (n : Nat) : agreeOnWrites i (raise s (.eCap n)) (raise s' (.eCap n)) := by
  have hcode : ¬ ecodeOf (statusWord false false false 4) = 0 := by decide
  have hsbv : ¬ sbValidOf (statusWord false false false 4) = true := by decide
  rcases hi with rfl | rfl
  all_goals exact ⟨rfl, fun h => absurd h hcode, fun h => absurd h hsbv⟩

end

/-- Settles O40: the operands of each operation are equal in the two states, so what it writes is. -/
theorem noHiddenState : Obligations.NoHiddenState := by
  intro i s s' h
  cases i with
  | subst =>
    refine ⟨_, _, rfl, rfl, ?_⟩
    simp only [agreeOnWrites, complete_STATUS, complete_Y, State.writeY_Y, substInput, show s.X = s'.X from h, and_self]
  | ksched =>
    refine ⟨_, _, rfl, rfl, ?_⟩
    simp only [agreeOnWrites, complete_STATUS, complete_SK, State.writeSK_SK, keyOperand, show s.K1 = s'.K1 from h, and_self]
  | ffunc =>
    obtain ⟨hR, hX⟩ := h
    refine ⟨_, _, rfl, rfl, ?_⟩
    simp only [agreeOnWrites, complete_STATUS, complete_Y, State.writeY_Y, halfBlockOperand, subkeyOperand, hR, hX, and_self]
  | round =>
    obtain ⟨hDI, hX⟩ := h
    refine ⟨_, _, rfl, rfl, ?_⟩
    simp only [agreeOnWrites, complete_STATUS, complete_DO, State.writeDO_DO, leftOperand, rightOperand, subkeyOperand, hDI,
      hX, and_self]
  | desenc | desdec =>
    obtain ⟨hDI, hK⟩ := h
    refine ⟨_, _, rfl, rfl, ?_⟩
    simp only [agreeOnWrites, complete_STATUS, complete_DO, State.writeDO_DO, blockOperand, keyOperand, hDI, hK, and_self]
  | tenc | tdec =>
    obtain ⟨hDI, h1, h2, h3⟩ := h
    refine ⟨_, _, rfl, rfl, ?_⟩
    simp only [agreeOnWrites, complete_STATUS, complete_DO, State.writeDO_DO, blockOperand, hDI, h1, h2, h3, and_self]
  | menc p =>
    obtain ⟨hcfg, hlen, hb, h1, h2, h3⟩ := h
    by_cases hf : fitsCapacity s.cfg s.MILEN = true
    · refine ⟨_, _, exec_menc_of_fits hf, exec_menc_of_fits (hcfg ▸ hlen ▸ hf), ?_⟩
      rw [← messageOperand_congr hlen hb, ← hlen, ← h1, ← h2, ← h3]
      exact agreeOnWrites_message (.inl rfl) s s' fun hw => comparisonResult_congr hw hlen hb h1 h2 h3
    · refine ⟨_, _, if_neg hf, if_neg (hcfg ▸ hlen ▸ hf), ?_⟩
      rw [← hlen]
      exact agreeOnWrites_raise_eCap (.inl rfl) s s' _
  | mdec p =>
    obtain ⟨hcfg, hlen, hb, h1, h2, h3⟩ := h
    by_cases hf : fitsCapacity s.cfg s.MILEN = true
    · refine ⟨_, _, exec_mdec_of_fits hf, exec_mdec_of_fits (hcfg ▸ hlen ▸ hf), ?_⟩
      rw [← messageOperand_congr hlen hb, ← hlen, ← h1, ← h2, ← h3]
      exact agreeOnWrites_message (.inr rfl) s s' (sb := s.SB) (sb' := s'.SB) nofun
    · refine ⟨_, _, if_neg hf, if_neg (hcfg ▸ hlen ▸ hf), ?_⟩
      rw [← hlen]
      exact agreeOnWrites_raise_eCap (.inr rfl) s s' _

end Sys2Proof.Machine
end

section
/-! PROOFS. The sequencer (10_state.md R14, R17): where it stands after any number of rounds of a DES invocation, of a
block and of a message, and what it computes there. -/

namespace Sys2Proof.Machine

open Sys2Proof.Spec

/-! ### The rounds of one DES invocation, as functions -/

theorem desRounds_append (ks ks' : List Sub48) (lr : Half32 × Half32) :
    desRounds (ks ++ ks') lr = desRounds ks' (desRounds ks lr) := by
  induction ks generalizing lr with
  | nil => rfl
  | cons k ks ih => exact ih _

theorem subkeysInOrder_length (key : Key64) (o : SubkeyOrder) : (subkeysInOrder key o).length = 16 := by
  cases o <;> simp [subkeysInOrder]

/-- R110, R111: the subkey of a round, by the order's index. -/
theorem subkeysInOrder_getElem (key : Key64) (o : SubkeyOrder) (j : Fin 16)
    (h : j.val < (subkeysInOrder key o).length) :
    (subkeysInOrder key o)[j.val] = (generateSubkeys key).get (subkeyIndex o j) := by
  cases o with
  | forward => rfl
  | reverse => simp [subkeysInOrder, subkeyIndex, List.getElem_reverse, Vector.get, Fin.rev]

/-- R110: the halves of a block before any round of an invocation. -/
def halvesOf (v : Block64) : Half32 × Half32 := (leftHalf (permute v tableIP), rightHalf (permute v tableIP))

/-- R110: the halves after the first `j` rounds of an invocation on `v`. -/
def halvesAfter (key : Key64) (o : SubkeyOrder) (v : Block64) (j : Nat) : Half32 × Half32 :=
  desRounds ((subkeysInOrder key o).take j) (halvesOf v)

@[simp] theorem halvesAfter_zero (key : Key64) (o : SubkeyOrder) (v : Block64) : halvesAfter key o v 0 = halvesOf v := rfl

theorem halvesAfter_succ (key : Key64) (o : SubkeyOrder) (v : Block64) (j : Fin 16) :
    halvesAfter key o v (j.val + 1) = desRound (halvesAfter key o v j).1 (halvesAfter key o v j).2
      ((generateSubkeys key).get (subkeyIndex o j)) := by
  have hj : j.val < (subkeysInOrder key o).length := by rw [subkeysInOrder_length]; exact j.isLt
  rw [halvesAfter, List.take_succ_eq_append_getElem hj, desRounds_append, subkeysInOrder_getElem]
  rfl

/-- R114: after the sixteenth round, the exchange and FP give the block function. -/
theorem permute_halvesAfter_sixteen (key : Key64) (o : SubkeyOrder) (v : Block64) :
    permute ((halvesAfter key o v 16).2 ++ (halvesAfter key o v 16).1) tableFP = desBlock v key o := by
  rw [halvesAfter, List.take_of_length_le (by rw [subkeysInOrder_length])]
  rfl

/-! ### The engine within an invocation -/

section
variable (d : Direction) (k1 k2 k3 : Key64)

theorem Engine.run_add (m n : Nat) (e : Engine) :
    e.run d k1 k2 k3 (m + n) = (e.run d k1 k2 k3 m).run d k1 k2 k3 n := by
  induction m generalizing e with
  | zero => rw [Nat.zero_add]; rfl
  | succ m ih => rw [Nat.add_right_comm]; exact ih _

theorem Engine.run_succ (n : Nat) (e : Engine) : e.run d k1 k2 k3 (n + 1) = (e.run d k1 k2 k3 n).tick d k1 k2 k3 :=
  Engine.run_add d k1 k2 k3 n 1 e

/-- The block function of a stage (R120, R121). -/
def stageBlock (st : Stage) (v : Block64) : Block64 := desBlock v (stageKey d st k1 k2 k3) (stageOrder d st)

/-- The three stages of a block. -/
def threeStages (v : Block64) : Block64 :=
  stageBlock d k1 k2 k3 .three (stageBlock d k1 k2 k3 .two (stageBlock d k1 k2 k3 .one v))

/-- The engine with the working values of R17 after `j` rounds of stage `st` on `v`. -/
def Engine.holding (st : Stage) (v : Block64) (j : Nat) (e : Engine) : Engine :=
  { e with
    subkeys := generateSubkeys (stageKey d st k1 k2 k3)
    L := (halvesAfter (stageKey d st k1 k2 k3) (stageOrder d st) v j).1
    R := (halvesAfter (stageKey d st k1 k2 k3) (stageOrder d st) v j).2 }

/-- The engine before round `j + 1` of stage `st` of block `b`: `v` is the stage's input, `todo` the blocks to come and
`out` the finished ones. The working values hold the first `j` rounds; before the first they are not loaded yet. -/
structure Engine.AtRound (b : Nat) (st : Stage) (v : Block64) (todo out : List Block64) (j : Fin 16) (e : Engine) : Prop where
  seq : e.seq = some ⟨b, st, j⟩
  value : e.value = v
  todo : e.todo = todo
  out : e.out = out
  subkeys : j ≠ 0 → e.subkeys = generateSubkeys (stageKey d st k1 k2 k3)
  halves : j ≠ 0 → (e.L, e.R) = halvesAfter (stageKey d st k1 k2 k3) (stageOrder d st) v j

variable {d k1 k2 k3} {b : Nat} {st : Stage} {v : Block64} {todo out : List Block64} {j : Fin 16} {e : Engine}

/-- The load puts the working values there at the first round of an invocation; later they are there. -/
theorem Engine.AtRound.load (h : e.AtRound d k1 k2 k3 b st v todo out j) :
    e.load d k1 k2 k3 ⟨b, st, j⟩ = e.holding d k1 k2 k3 st v j := by
  by_cases hj : j = 0
  · subst hj
    rw [← h.value]
    rfl
  · rw [Engine.load, if_neg hj, Engine.holding, ← h.subkeys hj, ← h.halves hj]

/-- One round: the working values after it, and then the sequencer's advance. -/
theorem Engine.AtRound.tick (h : e.AtRound d k1 k2 k3 b st v todo out j) :
    e.tick d k1 k2 k3 =
      if hj : j.val + 1 < 16 then { e.holding d k1 k2 k3 st v (j.val + 1) with seq := some ⟨b, st, ⟨j.val + 1, hj⟩⟩ }
      else (e.holding d k1 k2 k3 st v (j.val + 1)).finish ⟨b, st, j⟩ := by
  simp only [Engine.tick, h.seq, h.load, Engine.holding, halvesAfter_succ]

theorem Engine.AtRound.next (h : e.AtRound d k1 k2 k3 b st v todo out j) (hj : j.val + 1 < 16) :
    (e.tick d k1 k2 k3).AtRound d k1 k2 k3 b st v todo out ⟨j.val + 1, hj⟩ := by
  rw [h.tick, dif_pos hj]
  exact ⟨rfl, h.value, h.todo, h.out, fun _ => rfl, fun _ => rfl⟩

/-- `m` rounds of an invocation, short of the last. -/
theorem Engine.AtRound.run_rounds (h : e.AtRound d k1 k2 k3 b st v todo out 0) (m : Nat) (hm : m < 16) :
    (e.run d k1 k2 k3 m).AtRound d k1 k2 k3 b st v todo out ⟨m, hm⟩ := by
  induction m with
  | zero => exact h
  | succ m ih =>
    rw [Engine.run_succ]
    exact (ih (Nat.lt_of_succ_lt hm)).next hm

/-- The sixteen rounds of an invocation: the exchange, FP and the sequencer's advance. -/
theorem Engine.AtRound.run_invocation (h : e.AtRound d k1 k2 k3 b st v todo out 0) :
    ∃ e' : Engine, e'.todo = todo ∧ e'.out = out ∧
      permute (e'.R ++ e'.L) tableFP = stageBlock d k1 k2 k3 st v ∧
      e.run d k1 k2 k3 16 = e'.finish ⟨b, st, 15⟩ := by
  have h15 := h.run_rounds 15 (by omega)
  refine ⟨(e.run d k1 k2 k3 15).holding d k1 k2 k3 st v 16, h15.todo, h15.out, permute_halvesAfter_sixteen _ _ v, ?_⟩
  rw [Engine.run_succ, h15.tick, dif_neg (by decide)]
  rfl

/-- After stages 1 and 2 the next stage begins, on the value of the stage. -/
theorem Engine.AtRound.run_stage {st' : Stage} (h : e.AtRound d k1 k2 k3 b st v todo out 0) (hst : st.succ? = some st') :
    (e.run d k1 k2 k3 16).AtRound d k1 k2 k3 b st' (stageBlock d k1 k2 k3 st v) todo out 0 := by
  obtain ⟨e', htodo, hout, hv, hrun⟩ := h.run_invocation
  rw [hrun, Engine.finish, hst]
  exact ⟨rfl, hv, htodo, hout, fun h0 => absurd rfl h0, fun h0 => absurd rfl h0⟩

/-! ### Blocks and messages -/

/-- The engine between blocks: before the first round of block `b` with the blocks given to come, or idle when there is
none. -/
def Engine.AtBlock (d : Direction) (k1 k2 k3 : Key64) (b : Nat) (blocks out : List Block64) (e : Engine) : Prop :=
  match blocks with
  | [] => e.seq = none ∧ e.out = out
  | v :: todo => e.AtRound d k1 k2 k3 b .one v todo out 0

/-- After stage 3 the block is finished, and the next begins or the sequencer is idle. -/
theorem Engine.AtRound.run_lastStage (h : e.AtRound d k1 k2 k3 b .three v todo out 0) :
    (e.run d k1 k2 k3 16).AtBlock d k1 k2 k3 (b + 1) todo (out ++ [stageBlock d k1 k2 k3 .three v]) := by
  obtain ⟨e', htodo, hout, hv, hrun⟩ := h.run_invocation
  rw [hrun, Engine.finish, htodo, hout, hv]
  cases todo with
  | nil => exact ⟨rfl, rfl⟩
  | cons v' todo => exact ⟨rfl, rfl, rfl, rfl, fun h0 => absurd rfl h0, fun h0 => absurd rfl h0⟩

/-- The forty-eight rounds of a block. -/
theorem Engine.AtBlock.run_block (h : e.AtBlock d k1 k2 k3 b (v :: todo) out) :
    (e.run d k1 k2 k3 48).AtBlock d k1 k2 k3 (b + 1) todo (out ++ [threeStages d k1 k2 k3 v]) := by
  have h2 := Engine.AtRound.run_stage h (st' := .two) rfl
  have h3 := h2.run_stage (st' := .three) rfl
  rw [Engine.run_add d k1 k2 k3 32 16, Engine.run_add d k1 k2 k3 16 16]
  exact h3.run_lastStage

/-- Where the sequencer is within a block (R14). -/
theorem Engine.AtBlock.seq_within (h : e.AtBlock d k1 k2 k3 b (v :: todo) out) (m : Nat) (hm : m < 48) :
    (e.run d k1 k2 k3 m).seq = some ⟨b, stageOf (m / 16), Fin.ofNat 16 m⟩ := by
  have h2 := Engine.AtRound.run_stage h (st' := .two) rfl
  have h3 := h2.run_stage (st' := .three) rfl
  have hr : m % 16 < 16 := Nat.mod_lt _ (by omega)
  have hsplit : e.run d k1 k2 k3 m = (e.run d k1 k2 k3 (16 * (m / 16))).run d k1 k2 k3 (m % 16) := by
    rw [← Engine.run_add, Nat.div_add_mod]
  have hq : m / 16 = 0 ∨ m / 16 = 1 ∨ m / 16 = 2 := by omega
  rw [hsplit]
  rcases hq with hq | hq | hq <;> rw [hq]
  · exact (Engine.AtRound.run_rounds h _ hr).seq
  · exact (h2.run_rounds _ hr).seq
  · rw [Engine.run_add d k1 k2 k3 16 16]
    exact (h3.run_rounds _ hr).seq

/-- The first `n` blocks of a message. -/
theorem Engine.AtBlock.run_blocks {blocks : List Block64} (h : e.AtBlock d k1 k2 k3 0 blocks []) (n : Nat)
    (hn : n ≤ blocks.length) :
    (e.run d k1 k2 k3 (48 * n)).AtBlock d k1 k2 k3 n (blocks.drop n) ((blocks.take n).map (threeStages d k1 k2 k3)) := by
  induction n with
  | zero => exact h
  | succ n ih =>
    have hn' : n < blocks.length := hn
    have hb := ih (Nat.le_of_lt hn)
    rw [List.drop_eq_getElem_cons hn'] at hb
    rw [Nat.mul_succ, Engine.run_add, List.take_succ_eq_append_getElem hn', List.map_append]
    exact hb.run_block

end

theorem Engine.start_atBlock (d : Direction) (k1 k2 k3 : Key64) (blocks : List Block64) :
    (Engine.start blocks).AtBlock d k1 k2 k3 0 blocks [] := by
  cases blocks with
  | nil => exact ⟨rfl, rfl⟩
  | cons v todo => exact ⟨rfl, rfl, rfl, rfl, fun h0 => absurd rfl h0, fun h0 => absurd rfl h0⟩

/-- The whole message: the sequencer is idle, and every block has gone through its three stages. -/
theorem Engine.run_message (d : Direction) (k1 k2 k3 : Key64) (blocks : List Block64) :
    ((Engine.start blocks).run d k1 k2 k3 (48 * blocks.length)).seq = none ∧
    ((Engine.start blocks).run d k1 k2 k3 (48 * blocks.length)).out = blocks.map (threeStages d k1 k2 k3) := by
  have h := (Engine.start_atBlock d k1 k2 k3 blocks).run_blocks blocks.length (Nat.le_refl _)
  rwa [List.drop_length, List.take_length] at h

/-- Settles O59: `m` rounds are `m / 48` whole blocks and `m % 48` rounds of the next. -/
theorem sequencerVisitsRoundsInOrder : Obligations.SequencerVisitsRoundsInOrder := by
  intro d k1 k2 k3 blocks
  refine ⟨fun m hm => ?_, (Engine.run_message d k1 k2 k3 blocks).1⟩
  have hn : m / 48 < blocks.length := by omega
  have hb := (Engine.start_atBlock d k1 k2 k3 blocks).run_blocks (m / 48) (Nat.le_of_lt hn)
  rw [List.drop_eq_getElem_cons hn] at hb
  have hseq := hb.seq_within (m % 48) (Nat.mod_lt _ (by omega))
  rw [← Engine.run_add, Nat.div_add_mod] at hseq
  have hrnd : Fin.ofNat 16 (m % 48) = Fin.ofNat 16 m := Fin.ext (Nat.mod_mod_of_dvd m (by decide))
  rw [hseq, hrnd]

/-- R120. -/
theorem threeStages_ede (k1 k2 k3 : Key64) : threeStages .ede k1 k2 k3 = fun b => tripleEncryptBlock b k1 k2 k3 := rfl

/-- R121. -/
theorem threeStages_ded (k1 k2 k3 : Key64) : threeStages .ded k1 k2 k3 = fun b => tripleDecryptBlock b k1 k2 k3 := rfl

/-- Settles O60: the three stages of each direction are the triple functions. -/
theorem sequencerComputesTheFunctions : Obligations.SequencerComputesTheFunctions := by
  intro k1 k2 k3 blocks
  obtain ⟨_, hede⟩ := Engine.run_message .ede k1 k2 k3 blocks
  obtain ⟨_, hded⟩ := Engine.run_message .ded k1 k2 k3 blocks
  exact ⟨threeStages_ede k1 k2 k3 ▸ hede, threeStages_ded k1 k2 k3 ▸ hded⟩

end Sys2Proof.Machine
end

section
/-! PROOFS. The host's actions in order, and its reads of the message buffers (20_memory.md R30, R34, R36). -/

namespace Sys2Proof.Machine

/-! ### Runs over the host's queue -/

/-- A step on a queue that is not empty: the oldest action's outcome, with the later actions left in the queue. -/
theorem step_withHost_cons (s : State) (a : HostAction) (acts : List HostAction) :
    step (s.withHost (a :: acts)) = mapHost acts (serve a s) :=
  (step_of_pending rfl).trans (serve_withHost a s acts)

section
variable {M : Host.Core} (k : Nat) (s : M.State)

theorem run_succ_of_next {t : M.State} (h : M.step s = .next t) : M.run (k + 1) s = M.run k t := by
  rw [Host.Core.run, h]

theorem run_succ_of_fault {f : M.Fault} (h : M.step s = .fault f) : M.run (k + 1) s = .fault f := by
  rw [Host.Core.run, h]

theorem run_succ_of_refused {r : M.Refusal} (h : M.step s = .refused r) : M.run (k + 1) s = .refused r := by
  rw [Host.Core.run, h]

end

/-- R36 (d), along the actions: the outcome of the first, which does not depend on what stands behind it in the queue,
decides both sides; a fault or a refusal ends both. -/
theorem run_withHost_append (acts : List HostAction) (s : State) (rest : List HostAction) :
    Host.Core.run Sys2Proof.core acts.length (s.withHost (acts ++ rest)) = serveAll acts (s.withHost rest) := by
  induction acts generalizing s with
  | nil => rfl
  | cons a acts ih =>
    have hstep := step_withHost_cons s a (acts ++ rest)
    rw [serveAll, serve_withHost]
    generalize serve a s = o at hstep ⊢
    cases o with
    | next t =>
      exact (run_succ_of_next (M := Sys2Proof.core) acts.length (s.withHost (a :: (acts ++ rest))) hstep).trans (ih t)
    | fault f => exact run_succ_of_fault (M := Sys2Proof.core) acts.length (s.withHost (a :: (acts ++ rest))) hstep
    | refused r => exact run_succ_of_refused (M := Sys2Proof.core) acts.length (s.withHost (a :: (acts ++ rest))) hstep

/-- Settles O8, by induction on the actions to serve. -/
theorem queuedActionsServedInOrder : Obligations.QueuedActionsServedInOrder :=
  fun s acts rest => run_withHost_append acts s rest

/-! ### Reads of the message buffers -/

/-- R30: a byte below a length that fits has an address, and it is a byte of the message. -/
theorem hostReadMiByte_of_lt {s : State} {a : Nat} (ha : a < s.MILEN) (hf : fitsCapacity s.cfg s.MILEN = true) :
    hostReadMiByte s a = .next (miByte s a) := by
  rw [hostReadMiByte, if_pos (fitsCapacity_of_le ha hf), if_pos ha]

theorem hostReadMoByte_of_lt {s : State} {a : Nat} (ha : a < s.MOLEN) (hf : fitsOutCapacity s.cfg s.MOLEN = true) :
    hostReadMoByte s a = .next (moByte s a) := by
  rw [hostReadMoByte, if_pos (fitsOutCapacity_of_le ha hf), if_pos ha]

theorem readPort_miByte_of_lt {s : State} {a : Nat} (ha : a < s.MILEN) (hf : fitsCapacity s.cfg s.MILEN = true) :
    readPort (.miByte a) s = .next (.bits8 (miByte s a)) :=
  congrArg byteRead (hostReadMiByte_of_lt ha hf)

theorem readPort_moByte_of_lt {s : State} {a : Nat} (ha : a < s.MOLEN) (hf : fitsOutCapacity s.cfg s.MOLEN = true) :
    readPort (.moByte a) s = .next (.bits8 (moByte s a)) :=
  congrArg byteRead (hostReadMoByte_of_lt ha hf)

theorem readPort_MI_of_fits {s : State} (hf : fitsCapacity s.cfg s.MILEN = true) :
    readPort .MI s = .next (.bytes (messageOperand s)) := if_pos hf

theorem readPort_MO_of_fits {s : State} (hf : fitsOutCapacity s.cfg s.MOLEN = true) :
    readPort .MO s = .next (.bytes (messageOut s)) := if_pos hf

/-- Settles O47: a buffer's port returns the bytes `messageOperand` and `messageOut` list, and serving a read changes
the reply only. -/
theorem bufferReadReturnsMessageBytes : Obligations.BufferReadReturnsMessageBytes := by
  intro s rest
  refine ⟨fun a hs ha hf => ?_, fun a hs ha hf => ?_, fun hs hf => ?_, fun hs hf => ?_⟩
  · exact step_of_readPort hs (readPort_miByte_of_lt (s := s.withHost rest) ha hf)
  · exact step_of_readPort hs (readPort_moByte_of_lt (s := s.withHost rest) ha hf)
  · exact ⟨_, step_of_readPort hs (readPort_MI_of_fits (s := s.withHost rest) hf), messageOperand_length s,
      messageOperand_getD s⟩
  · exact ⟨_, step_of_readPort hs (readPort_MO_of_fits (s := s.withHost rest) hf), messageOut_length s,
      messageOut_getD s⟩

end Sys2Proof.Machine
end

section
/-! PROOFS. The command word: decoding and encoding agree, and the legal words are twelve (30_encoding.md R51 to R53);
and what a `WRM` stores (R55). -/

namespace Sys2Proof.Machine

open Sys2Proof.Spec

/-! ### The command word -/

/-- R51: the three fields make up the whole word. -/
theorem commandWord_commandFields (c : BitVec 8) : commandWord (commandFields c) = c := by
  have hp : BitVec.ofBool (c.getLsbD 4) = c.extractLsb' 4 1 := BitVec.eq_of_getLsbD_eq (by simp)
  have hhigh : c.extractLsb' 5 3 ++ c.extractLsb' 4 1 = c.extractLsb' 4 4 :=
    BitVec.extractLsb'_append_extractLsb'_eq_extractLsb' rfl
  calc commandWord (commandFields c)
    _ = c.extractLsb' 5 3 ++ c.extractLsb' 4 1 ++ c.extractLsb' 0 4 := by rw [← hp]; rfl
    _ = c.extractLsb' 0 8 := by
      rw [hhigh]
      exact BitVec.extractLsb'_append_extractLsb'_eq_extractLsb' rfl
    _ = c := BitVec.extractLsb'_eq_self

theorem withoutPadding_eq_ok {p : Bool} {i j : Instr} (h : withoutPadding p j = .ok i) : p = false ∧ i = j := by
  cases p <;> cases h
  exact ⟨rfl, rfl⟩

/-- R52: an operation is encoded with the `OP` and `P` that select it. -/
theorem fields_of_decodeOp {op : BitVec 4} {p : Bool} {i : Instr} (h : decodeOp op p = .ok i) : i.fields = ⟨op, p, 0⟩ := by
  suffices i.fields = ⟨BitVec.ofNat 4 op.toNat, p, 0⟩ by simpa using this
  unfold decodeOp at h
  split at h
  case h_9 hn | h_10 hn =>
    cases h
    rw [hn]
    rfl
  case h_11 => cases h
  all_goals
    rename_i hn
    obtain ⟨rfl, rfl⟩ := withoutPadding_eq_ok h
    rw [hn]
    rfl

/-- R53: a word that decodes has `CMD[7:5]` = 0, and its `OP` and `P` select the operation. -/
theorem fields_of_decode {c : BitVec 8} {i : Instr} (h : decode c = .ok i) : i.fields = commandFields c := by
  simp only [decode] at h
  split at h
  case isTrue hz =>
    rw [fields_of_decodeOp h]
    exact congrArg (CommandFields.mk _ _) (beq_iff_eq.1 hz).symm
  case isFalse => cases h

/-- R52: the word of the operation a word decodes to is that word. -/
theorem encode_of_decode {c : BitVec 8} {i : Instr} (h : decode c = .ok i) : encode i = c := by
  rw [encode, fields_of_decode h, commandWord_commandFields]

/-- Settles O3: the word is made of the operation's fields, and decoding reads them back. -/
theorem encodeAndDecodeAgree : Obligations.EncodeAndDecodeAgree :=
  ⟨decode_encode, fun _ _ => encode_of_decode⟩

/-- Settles O1: each word is the one its operation is encoded with. -/
theorem commandWordsDecode : Obligations.CommandWordsDecode :=
  ⟨decode_encode .subst, decode_encode .ksched, decode_encode .ffunc, decode_encode .round, decode_encode .desenc,
    decode_encode .desdec, decode_encode .tenc, decode_encode .tdec, decode_encode (.menc false),
    decode_encode (.menc true), decode_encode (.mdec false), decode_encode (.mdec true)⟩

theorem encode_mem_legalWords (i : Instr) : encode i ∈ legalWords := by
  cases i with
  | menc p => cases p <;> decide
  | mdec p => cases p <;> decide
  | _ => decide

/-- R52: every legal word is the word of an operation. -/
theorem exists_encode_of_mem_legalWords {c : BitVec 8} (h : c ∈ legalWords) : ∃ i, encode i = c := by
  have hwords : legalWords = [.subst, .ksched, .ffunc, .round, .desenc, .desdec, .tenc, .tdec, .menc false, .menc true,
    .mdec false, .mdec true].map encode := by decide
  rw [hwords] at h
  obtain ⟨i, _, hi⟩ := List.mem_map.1 h
  exact ⟨i, hi⟩

/-- Settles O2: the words that decode, and the legal words, are both the words of the operations. -/
theorem legalWordsAreTheTwelve : Obligations.LegalWordsAreTheTwelve := by
  refine fun c => ⟨fun ⟨i, hi⟩ => ?_, fun hc => ?_⟩
  · exact encode_of_decode hi ▸ encode_mem_legalWords i
  · obtain ⟨i, rfl⟩ := exists_encode_of_mem_legalWords hc
    exact ⟨i, decode_encode i⟩

/-! ### The message write -/

/-- Settles O45: a byte of `MI` after a `WRM` is the message's where the buffer has the address, or as before. -/
theorem hostMessageWriteStoresBytes : Obligations.HostMessageWriteStoresBytes := by
  intro s bs rest hs
  refine ⟨((s.withHost rest).writeMessageIn bs).withReply .completed, step_of_pending hs, rfl, fun a ha hf => ?_,
    fun a ha => ?_, sameButMessageIn_withMessageIn s _ _ _ _ _, rfl⟩
  · exact (miByte_writeMessageIn_any (s.withHost rest) bs a).trans (if_pos ⟨ha, hf⟩)
  · refine (miByte_writeMessageIn_any (s.withHost rest) bs a).trans (if_neg fun ⟨hlt, hf⟩ => ?_)
    exact ha.elim hlt.not_ge fun hnf => Bool.false_ne_true (hnf.symm.trans hf)

end Sys2Proof.Machine
end

section
/-! PROOFS. The primitives and codecs of 40_bitvector.md at every position and length: rotation (R66), XOR (R67), text
(R70, R71) and hexadecimal (R72, R73). -/

namespace Sys2Proof.Machine

open Sys2Proof.Spec

/-! ### Rotation and XOR -/

/-- R66: position `i + 1` of a rotation. -/
theorem bitAt_rotl {L : Nat} (b : BitVec L) (n : Fin L) {i : Nat} (h : i < L) :
    bitAt (rotl b n) (i + 1) = bitAt b ((i + n) % L + 1) := by
  simp only [bitAt, rotl, Nat.add_sub_cancel, BitVec.getMsbD_rotateLeft, h, decide_true, Bool.true_and, Nat.add_comm n.val]

/-- Settles O49: `bitAt_rotl`, positions counted from 1. -/
theorem rotationMovesEveryPosition : Obligations.RotationMovesEveryPosition := by
  intro L b n i h1 hL
  obtain ⟨j, rfl⟩ := Nat.exists_eq_add_of_le' h1
  exact bitAt_rotl b n hL

theorem toNat_xor_eq_add_mod_two (x y : Bool) : (Bool.xor x y).toNat = (x.toNat + y.toNat) % 2 := by
  cases x <;> cases y <;> rfl

/-- R67: element `i` of the XOR of two sequences of one length. -/
theorem getD_zipWith_xor {a b : Bits} (h : a.length = b.length) (i : Nat) :
    (List.zipWith Bool.xor a b).getD i false = Bool.xor (a.getD i false) (b.getD i false) := by
  by_cases hi : i < a.length
  · have hi' : i < b.length := h ▸ hi
    simp [List.getD, hi, hi']
  · have hi' : ¬ i < b.length := h ▸ hi
    simp [List.getD, hi, hi']

/-- Settles O50: on one length XOR adds the bits mod 2, and the length check answers the rest. -/
theorem untypedXorChecksLengths : Obligations.UntypedXorChecksLengths := by
  refine fun a b => ⟨fun h => ⟨List.zipWith Bool.xor a b, if_pos h, by simp [h], fun i _ => ?_⟩,
    fun h => ⟨b.length, if_neg h⟩⟩
  rw [getD_zipWith_xor h, toNat_xor_eq_add_mod_two]

/-! ### Text -/

/-- R70: a text of single-byte characters has one byte per character. -/
theorem textToBytes_of_allSingleByte {t : Text} (h : allSingleByte t) : textToBytes t = .ok (t.map (BitVec.ofNat 8)) := by
  induction t with
  | nil => rfl
  | cons c rest ih =>
    obtain ⟨hc, hrest⟩ := List.forall_mem_cons.1 h
    rw [textToBytes, if_pos hc, ih hrest]
    rfl

/-- R70: the first character above 255 is the one `E_CODEPOINT` names. -/
theorem textToBytes_of_find? {t : Text} {c : CodePoint} (h : t.find? (255 < ·) = some c) :
    textToBytes t = .error (.eCodepoint c) := by
  induction t with
  | nil => cases h
  | cons d rest ih =>
    by_cases hd : 255 < d
    · obtain rfl : d = c := by simpa [hd] using h
      rw [textToBytes, if_neg hd.not_ge]
    · rw [List.find?_cons_of_neg (by simpa using hd)] at h
      rw [textToBytes, if_pos (Nat.le_of_not_lt hd), ih h]

theorem exists_find?_of_not_allSingleByte {t : Text} (h : ¬ allSingleByte t) : ∃ c, t.find? (255 < ·) = some c := by
  refine Option.isSome_iff_exists.1 (List.find?_isSome.2 ?_)
  simpa [allSingleByte] using h

/-- R71: the bytes of a text of single-byte characters are those characters. -/
theorem bytesToText_map_ofNat {t : Text} (h : allSingleByte t) : bytesToText (t.map (BitVec.ofNat 8)) = t := by
  have hbyte : ∀ c ∈ t, (BitVec.toNat ∘ BitVec.ofNat 8) c = id c :=
    fun c hc => Nat.mod_eq_of_lt (Nat.lt_succ_of_le (h c hc))
  rw [bytesToText, List.map_map, List.map_congr_left hbyte, List.map_id]

/-- Settles O53: the bytes of single-byte characters read back as the text, and a first wide character is the error. -/
theorem textConversionRejectsWideCharacters : Obligations.TextConversionRejectsWideCharacters := by
  refine fun t => ⟨fun h => ⟨bytesToBits (t.map (BitVec.ofNat 8)), ?_, by simp, ?_⟩, fun h => ?_⟩
  · rw [textToBits, textToBytes_of_allSingleByte h]
    rfl
  · rw [bitsToText, bitsToBytes_bytesToBits, bytesToText_map_ofNat h]
  · obtain ⟨c, hc⟩ := exists_find?_of_not_allSingleByte h
    refine ⟨c, ?_, List.mem_of_find?_eq_some hc, by simpa using List.find?_some hc⟩
    rw [textToBits, textToBytes_of_find? hc]
    rfl

/-! ### Hexadecimal -/

/-- The number a vector's sequence spells is the vector's. -/
@[simp] theorem val_toBits {n : Nat} (b : BitVec n) : val (toBits b) = b.toNat := by
  have hlt : val (toBits b) < 2 ^ n := by simpa using val_lt (toBits b)
  rw [← Nat.mod_eq_of_lt hlt, ← BitVec.toNat_ofNat]
  exact congrArg BitVec.toNat (ofBits_toBits b)

/-- R73: four bits in front are one digit in front. -/
theorem bitsToHex_nibble_append {n b : Bits} {h : Text} (hn : n.length = 4) (hb : bitsToHex b = some h) :
    bitsToHex (n ++ b) = some (hexDigit (val n) :: h) := by
  match n, hn with
  | [b1, b2, b3, b4], _ => simp [bitsToHex, hb]

/-- R72: one digit in front is four bits in front. -/
theorem hexToBits_cons_of_hexValue {c : CodePoint} {h : Text} {v : Nat} {b : Bits} (hc : hexValue c = some v)
    (hb : hexToBits h = some b) : hexToBits (c :: h) = some (toBits (BitVec.ofNat 4 v) ++ b) := by
  rw [hexToBits, hc, hb]

/-- 30_encoding.md R50: a digit has the value it was written for. -/
theorem hexValue_hexDigit : ∀ v < 16, hexValue (hexDigit v) = some v := by decide

theorem hexDigit_eq_lowercaseDigits : ∀ v < 16, hexDigit v = lowercaseDigits.getD v 0 := by decide

theorem hexDigit_of_lt {v : Nat} (h : v < 10) : hexDigit v = 48 + v := if_pos h

theorem hexDigit_of_ge {v : Nat} (h : 10 ≤ v) : hexDigit v = 87 + v := if_neg h.not_gt

theorem hexValue_decimal {c : Nat} (h : 48 ≤ c ∧ c ≤ 57) : hexValue c = some (c - 48) := if_pos h

theorem hexValue_upper {c : Nat} (h : 65 ≤ c ∧ c ≤ 70) : hexValue c = some (c - 55) := by
  have hdec : ¬ (48 ≤ c ∧ c ≤ 57) := by omega
  rw [hexValue, if_neg hdec, if_pos h]

theorem hexValue_lower {c : Nat} (h : 97 ≤ c ∧ c ≤ 102) : hexValue c = some (c - 87) := by
  have hdec : ¬ (48 ≤ c ∧ c ≤ 57) := by omega
  have hup : ¬ (65 ≤ c ∧ c ≤ 70) := by omega
  rw [hexValue, if_neg hdec, if_neg hup, if_pos h]

/-- 30_encoding.md R50: a digit has a value, whose own digit is the same in lower case. -/
theorem exists_hexValue {c : Nat} (hc : (48 ≤ c ∧ c ≤ 57) ∨ (65 ≤ c ∧ c ≤ 70) ∨ (97 ≤ c ∧ c ≤ 102)) :
    ∃ v < 16, hexValue c = some v ∧ hexDigit v = if c ≤ 70 ∧ 65 ≤ c then c + 32 else c := by
  obtain hc | hc | hc := hc
  · have hv : 48 + (c - 48) = c := Nat.add_sub_cancel' hc.1
    refine ⟨c - 48, by omega, hexValue_decimal hc, ?_⟩
    rw [hexDigit_of_lt (by omega), if_neg (by omega), hv]
  · have hv : 87 + (c - 55) = c + 32 := by omega
    refine ⟨c - 55, by omega, hexValue_upper hc, ?_⟩
    rw [hexDigit_of_ge (by omega), if_pos hc.symm, hv]
  · have hv : 87 + (c - 87) = c := Nat.add_sub_cancel' (by omega)
    refine ⟨c - 87, by omega, hexValue_lower hc, ?_⟩
    rw [hexDigit_of_ge (by omega), if_neg (by omega), hv]

theorem val_nibble_lt (b1 b2 b3 b4 : Bool) : val [b1, b2, b3, b4] < 16 := val_lt [b1, b2, b3, b4]

/-- R73: whole nibbles have digits. -/
theorem exists_bitsToHex : ∀ b : Bits, b.length % 4 = 0 → ∃ h, bitsToHex b = some h
  | [], _ => ⟨[], rfl⟩
  | b1 :: b2 :: b3 :: b4 :: rest, hlen =>
    have ⟨_, h⟩ := exists_bitsToHex rest ((Nat.add_mod_right _ 4).symm.trans hlen)
    ⟨_, bitsToHex_nibble_append (n := [b1, b2, b3, b4]) rfl h⟩
  | [_], h | [_, _], h | [_, _, _], h => nomatch h

/-- Induction along the digits of R73: what holds of no bits and is kept by one nibble and its digit in front holds of bits
and their digits. -/
theorem bitsToHex_induction {P : Bits → Text → Prop} {b : Bits} {h : Text} (hb : bitsToHex b = some h) (nil : P [] [])
    (cons : ∀ b1 b2 b3 b4 rest digits, P rest digits →
      P (b1 :: b2 :: b3 :: b4 :: rest) (hexDigit (val [b1, b2, b3, b4]) :: digits)) : P b h := by
  fun_induction bitsToHex b generalizing h with
  | case1 => exact Option.some.inj hb ▸ nil
  | case2 b1 b2 b3 b4 rest digits hrest ih => exact Option.some.inj hb ▸ cons b1 b2 b3 b4 rest digits (ih hrest)
  | case3 => cases hb
  | case4 => cases hb

/-- R73: one digit for four bits. -/
theorem length_of_bitsToHex {b : Bits} {h : Text} (hb : bitsToHex b = some h) : 4 * h.length = b.length :=
  bitsToHex_induction (P := fun b h => 4 * h.length = b.length) hb rfl fun _ _ _ _ _ _ ih => congrArg (· + 4) ih

/-- R72 undoes R73. -/
theorem hexToBits_of_bitsToHex {b : Bits} {h : Text} (hb : bitsToHex b = some h) : hexToBits h = some b := by
  refine bitsToHex_induction (P := fun b h => hexToBits h = some b) hb rfl fun b1 b2 b3 b4 rest digits ih => ?_
  have hbits : toBits (ofBits 4 [b1, b2, b3, b4]) = [b1, b2, b3, b4] := toBits_ofBits rfl
  exact (hexToBits_cons_of_hexValue (hexValue_hexDigit _ (val_nibble_lt b1 b2 b3 b4)) ih).trans
    (congrArg (fun n => some (n ++ rest)) hbits)

/-- The number of the four bits from `4i + 1` (R73). -/
def nibbleAt (b : Bits) (i : Nat) : Nat :=
  8 * (b.getD (4 * i) false).toNat + 4 * (b.getD (4 * i + 1) false).toNat + 2 * (b.getD (4 * i + 2) false).toNat
    + (b.getD (4 * i + 3) false).toNat

theorem nibbleAt_zero (b1 b2 b3 b4 : Bool) (rest : Bits) :
    nibbleAt (b1 :: b2 :: b3 :: b4 :: rest) 0 = val [b1, b2, b3, b4] := by
  simp only [nibbleAt, val, List.foldl_cons, List.foldl_nil, List.getD_cons_zero, List.getD_cons_succ,
    Nat.mul_zero, Nat.zero_add]
  omega

theorem nibbleAt_succ (b1 b2 b3 b4 : Bool) (rest : Bits) (i : Nat) :
    nibbleAt (b1 :: b2 :: b3 :: b4 :: rest) (i + 1) = nibbleAt rest i := rfl

/-- R73: digit `i` is the lowercase digit of the four bits from `4i + 1`. -/
theorem getD_of_bitsToHex {b : Bits} {h : Text} (hb : bitsToHex b = some h) :
    ∀ i < h.length, h.getD i 0 = lowercaseDigits.getD (nibbleAt b i) 0 := by
  refine bitsToHex_induction (P := fun b h => ∀ i < h.length, h.getD i 0 = lowercaseDigits.getD (nibbleAt b i) 0) hb
    (fun i hi => absurd hi i.not_lt_zero) fun b1 b2 b3 b4 rest digits ih i hi => ?_
  cases i with
  | zero => rw [nibbleAt_zero, List.getD_cons_zero, hexDigit_eq_lowercaseDigits _ (val_nibble_lt b1 b2 b3 b4)]
  | succ i => rw [nibbleAt_succ, List.getD_cons_succ, ih i (Nat.lt_of_succ_lt_succ hi)]

/-- R72, R73: valid digits convert to bits and back to their lower case. -/
theorem exists_hexToBits {h : Text} (hh : ∀ c ∈ h, (48 ≤ c ∧ c ≤ 57) ∨ (65 ≤ c ∧ c ≤ 70) ∨ (97 ≤ c ∧ c ≤ 102)) :
    ∃ b, hexToBits h = some b ∧ bitsToHex b = some (h.map fun c => if c ≤ 70 ∧ 65 ≤ c then c + 32 else c) := by
  induction h with
  | nil => exact ⟨[], rfl, rfl⟩
  | cons c rest ih =>
    obtain ⟨hc, hrest⟩ := List.forall_mem_cons.1 hh
    obtain ⟨v, hv, hvalue, hdigit⟩ := exists_hexValue hc
    obtain ⟨b, hbits, hhex⟩ := ih hrest
    refine ⟨_, hexToBits_cons_of_hexValue hvalue hbits, ?_⟩
    rw [bitsToHex_nibble_append (toBits_length _) hhex, val_toBits, BitVec.toNat_ofNat, Nat.mod_eq_of_lt hv, hdigit]
    rfl

/-- Settles O52: the digits of whole nibbles, nibble by nibble, and the bits of valid digits, digit by digit. -/
theorem hexDigitsRoundTripLowercase : Obligations.HexDigitsRoundTripLowercase := by
  refine ⟨fun b hlen => ?_, fun h hh => exists_hexToBits hh⟩
  obtain ⟨h, hb⟩ := exists_bitsToHex b hlen
  exact ⟨h, hb, length_of_bitsToHex hb, hexToBits_of_bitsToHex hb, getD_of_bitsToHex hb⟩

end Sys2Proof.Machine
end

section
/-! PROOFS. The S-boxes (41_sbox.md): each nibble of `substitute` (R81), the flattened tables (R86) and the rows (R85). -/

namespace Sys2Proof.Machine

open Sys2Proof.Spec

/-! ### Substitution -/

/-- Nibble `i` of eight nibbles appended, counted from the left. -/
theorem extractLsb'_append_nibbles (y : Fin 8 → Nibble4) (i : Fin 8) :
    (y 0 ++ y 1 ++ y 2 ++ y 3 ++ y 4 ++ y 5 ++ y 6 ++ y 7).extractLsb' (28 - 4 * i.val) 4 = y i := by
  simp only [BitVec.extractLsb'_append_eq_ite]
  fin_cases i <;> simp

/-- R81, R83: the output of box `i + 1` is the bits `4i + 1` to `4i + 4` of the substituted half-block. -/
theorem extractLsb'_substitute (x : Sub48) (i : Fin 8) :
    (substitute x).extractLsb' (28 - 4 * i.val) 4 = sboxNibble x i :=
  extractLsb'_append_nibbles (sboxNibble x) i

/-- R86: the row and column of a chunk address the entry that the flattened box has at the chunk's value. -/
theorem sboxLookup_eq_flatEntry :
    ∀ (i : Fin 8) (c : Chunk6), sboxLookup (sboxes.get i) c = BitVec.ofNat 4 (flatEntry i c.toNat) := by
  decide

/-- Settles O9: SUBST writes `substitute X` to `Y`, whose nibbles are the boxes' entries, and those are the flattened
tables'. -/
theorem substLooksUpFlatTables : Obligations.SubstLooksUpFlatTables := by
  refine fun s => ⟨complete (s.writeY (substitute s.X)) 0x00, rfl, complete_STATUS _ _, fun i hi => ?_⟩
  calc (substitute s.X).extractLsb' (28 - 4 * i) 4
    _ = sboxLookup (sboxes.get ⟨i, hi⟩) (chunk s.X ⟨i, hi⟩) := extractLsb'_substitute s.X ⟨i, hi⟩
    _ = BitVec.ofNat 4 (flatEntry i (chunk s.X ⟨i, hi⟩).toNat) := sboxLookup_eq_flatEntry ⟨i, hi⟩ _

/-! ### Rows -/

/-- R85: no value stands twice in a row. -/
theorem sboxes_row_injective : ∀ (i : Fin 8) (r : Fin 4), Function.Injective fun c : Fin 16 => sboxes[i][r][c].toFin := by
  unfold Function.Injective
  decide

/-- Settles O10: 16 entries without a repetition are all 16 values. -/
theorem sboxRowsArePermutations : Obligations.SboxRowsArePermutations := by
  intro i r v
  have hinj := sboxes_row_injective i r
  obtain ⟨c, hc⟩ := Finite.injective_iff_surjective.1 hinj v.toFin
  have hcv : sboxes[i][r][c] = v := BitVec.eq_of_toFin_eq hc
  exact ⟨c, hcv, fun c' hc' => hinj (congrArg BitVec.toFin (hc'.trans hcv.symm))⟩

end Sys2Proof.Machine
end

section
/-! PROOFS. The key schedule (42_key_schedule.md): the shift schedule and its cumulative rotation (R93), and the key bit
that each bit of each subkey copies (R90 to R95). -/

namespace Sys2Proof.Machine

open Sys2Proof.Spec

/-! ### Accumulated rotation -/

/-- R93: a half after the rotations of a list of amounts, one after the other. -/
def rotateAll (shifts : List (Fin 28)) (H : KeyHalf28) : KeyHalf28 := shifts.foldl (fun h m => rotl h m) H

/-- R93: the cumulative amount of a list of rotations. -/
def totalShift (shifts : List (Fin 28)) : Nat := (shifts.map Fin.val).sum

@[simp] theorem rotateAll_cons (m : Fin 28) (rest : List (Fin 28)) (H : KeyHalf28) :
    rotateAll (m :: rest) H = rotateAll rest (rotl H m) := rfl

@[simp] theorem totalShift_cons (m : Fin 28) (rest : List (Fin 28)) : totalShift (m :: rest) = m + totalShift rest :=
  List.sum_cons

/-- R93: rotations one after the other are one rotation by the cumulative amount. -/
theorem bitAt_rotateAll (shifts : List (Fin 28)) (H : KeyHalf28) {j : Nat} (hj : j < 28) :
    bitAt (rotateAll shifts H) (j + 1) = bitAt H ((j + totalShift shifts) % 28 + 1) := by
  induction shifts generalizing H with
  | nil => exact congrArg (fun q => bitAt H (q + 1)) (Nat.mod_eq_of_lt hj).symm
  | cons m rest ih =>
    have hmod : (j + totalShift rest) % 28 < 28 := Nat.mod_lt _ (by decide)
    rw [rotateAll_cons, ih, bitAt_rotl H m hmod, Nat.mod_add_mod, totalShift_cons, Nat.add_assoc,
      Nat.add_comm (totalShift rest)]

/-- R93: the third line is the running sum of the amounts. -/
theorem totalShift_take_shiftSchedule :
    ∀ n < 16, totalShift (shiftSchedule.take (n + 1)) = cumulativeShift.getD n 0 := by
  decide

/-- R93: the sixteen amounts add up to the length of a half. -/
theorem totalShift_shiftSchedule : totalShift shiftSchedule = 28 := by decide

theorem rotateAll_shiftSchedule (H : KeyHalf28) : rotateAll shiftSchedule H = H := by
  refine eq_of_bitAt fun j hj => ?_
  rw [bitAt_rotateAll _ _ hj, totalShift_shiftSchedule, Nat.add_mod_right, Nat.mod_eq_of_lt hj]

/-- Settles O12: the amounts are read off, and the rotations of a half add up (`bitAt_rotateAll`). -/
theorem shiftScheduleAccumulates : Obligations.ShiftScheduleAccumulates := by
  refine ⟨rfl, by decide, fun H n j hn hj => ?_, rotateAll_shiftSchedule⟩
  rw [← totalShift_take_shiftSchedule n hn]
  exact bitAt_rotateAll _ H hj

/-! ### The subkeys -/

/-- R90, R93: the position of `C ‖ D` that stands at position `p` after both halves are rotated by `c`. -/
def rotatedPosition (c p : Nat) : Nat := if p ≤ 28 then (p - 1 + c) % 28 + 1 else (p - 29 + c) % 28 + 29

theorem subkeySource_eq (n i : Nat) : subkeySource n i =
    tablePC1.entries.getD (rotatedPosition (cumulativeShift.getD n 0) (tablePC2.entries.getD i 0) - 1) 0 := rfl

theorem bitAt_append_left (C D : KeyHalf28) {j : Nat} (hj : j < 28) : bitAt (C ++ D) (j + 1) = bitAt C (j + 1) :=
  (BitVec.getMsbD_append (x := C) (y := D)).trans (if_neg hj.not_ge)

theorem bitAt_append_right (C D : KeyHalf28) (j : Nat) : bitAt (C ++ D) (j + 29) = bitAt D (j + 1) :=
  (BitVec.getMsbD_append (x := C) (y := D)).trans (if_pos (Nat.le_add_left 28 j))

/-- R90: rotating both halves moves every position of `C ‖ D` within its half. -/
theorem bitAt_rotateAll_append (shifts : List (Fin 28)) (C D : KeyHalf28) {p : Nat} (h1 : 1 ≤ p) (h56 : p ≤ 56) :
    bitAt (rotateAll shifts C ++ rotateAll shifts D) p = bitAt (C ++ D) (rotatedPosition (totalShift shifts) p) := by
  by_cases hp : p ≤ 28
  · obtain ⟨j, rfl⟩ := Nat.exists_eq_add_of_le' h1
    rw [rotatedPosition, if_pos hp, Nat.add_sub_cancel, bitAt_append_left _ _ hp, bitAt_rotateAll _ _ hp,
      bitAt_append_left _ _ (Nat.mod_lt _ (by decide))]
  · obtain ⟨j, rfl⟩ := Nat.exists_eq_add_of_le' (Nat.lt_of_not_le hp)
    rw [rotatedPosition, if_neg hp, Nat.add_sub_cancel, bitAt_append_right, bitAt_rotateAll _ _ (by omega),
      bitAt_append_right]

/-- R92: the two halves together are the key after PC1. -/
theorem initialC_append_initialD (key : Key64) : initialC key ++ initialD key = permute key tablePC1 := by
  have hsplit : 28 = 0 + 28 := rfl
  exact (BitVec.extractLsb'_append_extractLsb'_eq_extractLsb' hsplit).trans BitVec.extractLsb'_eq_self

theorem rotatedPosition_inRange (c p : Nat) : 1 ≤ rotatedPosition c p ∧ rotatedPosition c p ≤ 56 := by
  unfold rotatedPosition
  split <;> omega

/-- R90: subkey `n` is PC2 of the halves after the first `n + 1` rotations. -/
theorem subkeyRounds_getElem {shifts : List (Fin 28)} {n : Nat} (C D : KeyHalf28)
    (h : n < (subkeyRounds shifts C D).length) : (subkeyRounds shifts C D)[n] =
      permute (rotateAll (shifts.take (n + 1)) C ++ rotateAll (shifts.take (n + 1)) D) tablePC2 := by
  induction shifts generalizing C D n with
  | nil => exact absurd h n.not_lt_zero
  | cons m rest ih =>
    cases n with
    | zero => rfl
    | succ n => exact ih (rotl C m) (rotl D m) (Nat.lt_of_succ_lt_succ h)

theorem generateSubkeys_getElem (key : Key64) (n : Fin 16) : (generateSubkeys key)[n] =
    permute (rotateAll (shiftSchedule.take (n + 1)) (initialC key) ++
      rotateAll (shiftSchedule.take (n + 1)) (initialD key)) tablePC2 :=
  subkeyRounds_getElem _ _ _

theorem permTable_getD_inRange {L m : Nat} (T : PermTable L m) {i : Nat} (hi : i < m) :
    1 ≤ T.entries.getD i 0 ∧ T.entries.getD i 0 ≤ L := by
  have hlen : i < T.entries.length := T.length_eq.symm ▸ hi
  rw [List.getD_eq_getElem _ _ hlen]
  exact T.inRange _ (List.getElem_mem hlen)

/-- R65: `bitAt_permute`, positions counted from 1. -/
theorem bitAt_permute_of_pos {L m : Nat} (b : BitVec L) (T : PermTable L m) {p : Nat} (h1 : 1 ≤ p) (hm : p ≤ m) :
    bitAt (permute b T) p = bitAt b (T.entries.getD (p - 1) 0) := by
  obtain ⟨i, rfl⟩ := Nat.exists_eq_add_of_le' h1
  exact bitAt_permute b T hm

/-- R90 to R95: bit `i + 1` of subkey `n + 1`, back through PC2, the rotated halves and PC1. -/
theorem bitAt_generateSubkeys (key : Key64) (n : Fin 16) {i : Nat} (hi : i < 48) :
    bitAt (generateSubkeys key)[n] (i + 1) = bitAt key (subkeySource n i) := by
  obtain ⟨hp1, hp56⟩ := permTable_getD_inRange tablePC2 hi
  obtain ⟨hq1, hq56⟩ := rotatedPosition_inRange (cumulativeShift.getD n 0) (tablePC2.entries.getD i 0)
  rw [generateSubkeys_getElem, bitAt_permute _ _ hi, bitAt_rotateAll_append _ _ _ hp1 hp56,
    totalShift_take_shiftSchedule n n.isLt, initialC_append_initialD, bitAt_permute_of_pos _ _ hq1 hq56,
    subkeySource_eq]

/-- Settles O11: KSCHED writes the subkeys of `K1`, whose bits are `bitAt_generateSubkeys`. -/
theorem kschedCopiesRotatedKeyBits : Obligations.KschedCopiesRotatedKeyBits :=
  fun s => ⟨complete (s.writeSK (generateSubkeys s.K1)) 0x00, rfl, complete_STATUS _ _,
    fun n _ => bitAt_generateSubkeys s.K1 n⟩

end Sys2Proof.Machine
end

section
/-! PROOFS. The round (43_feistel.md): FFUNC by positions (R100 to R102), ROUND by positions (R103), and the round
undoing itself (R104). -/

namespace Sys2Proof.Machine

/-! ### Positions -/

/-- R67: XOR acts position by position. -/
@[simp] theorem bitAt_xorBits {n : Nat} (a b : BitVec n) (p : Nat) :
    bitAt (xorBits a b) p = Bool.xor (bitAt a p) (bitAt b p) :=
  BitVec.getMsbD_xor

/-- R45: position `j + 1` of the left half is that of the block. -/
theorem bitAt_leftHalf (b : Block64) {j : Nat} (hj : j < 32) : bitAt (leftHalf b) (j + 1) = bitAt b (j + 1) :=
  calc bitAt (leftHalf b) (j + 1)
    _ = bitAt (leftHalf b ++ rightHalf b) (j + 1) := (BitVec.getMsbD_append.trans (if_neg hj.not_ge)).symm
    _ = bitAt b (j + 1) := by rw [leftHalf_append_rightHalf]

/-- R45: position `j + 1` of the right half is position `32 + (j + 1)` of the block. -/
theorem bitAt_rightHalf (b : Block64) (j : Nat) : bitAt (rightHalf b) (j + 1) = bitAt b (32 + (j + 1)) :=
  calc bitAt (rightHalf b) (j + 1)
    _ = (rightHalf b).getMsbD (32 + j - 32) := by rw [Nat.add_sub_cancel_left]; rfl
    _ = bitAt (leftHalf b ++ rightHalf b) (32 + (j + 1)) :=
        (BitVec.getMsbD_append.trans (if_pos (Nat.le_add_right 32 j))).symm
    _ = bitAt b (32 + (j + 1)) := by rw [leftHalf_append_rightHalf]

/-! ### FFUNC -/

/-- R101: E in ring form. Row `i` runs from one position before the four of group `i + 1` to one after them. -/
theorem tableE_ring : ∀ i < 8, ∀ j < 6, tableE.entries.getD (6 * i + j) 0 = (4 * i + j + 31) % 32 + 1 := by decide

/-- R101: the expanded half-block by rows of six positions. -/
theorem bitAt_permute_tableE (r : Half32) {i j : Nat} (hi : i < 8) (hj : j < 6) :
    bitAt (permute r tableE) (6 * i + j + 1) = bitAt r ((4 * i + j + 31) % 32 + 1) := by
  have hpos : 6 * i + j < 48 := by omega
  rw [bitAt_permute r tableE hpos, tableE_ring i hi j hj]

/-- Two 48-bit words that agree on the eight chunks of six positions are equal. -/
theorem eq_of_bitAt_chunks {a b : Sub48} (h : ∀ i < 8, ∀ j < 6, bitAt a (6 * i + j + 1) = bitAt b (6 * i + j + 1)) :
    a = b := by
  refine eq_of_bitAt fun p hp => ?_
  have hchunk : p / 6 < 8 := by omega
  have hpos := h (p / 6) hchunk (p % 6) (Nat.mod_lt p (by decide))
  rwa [Nat.div_add_mod] at hpos

/-- R100: the word of the ring expansion XOR the subkey is what the boxes are given. -/
theorem expanded_xor_subkey_eq {b : Block64} {k z : Sub48}
    (hz : ∀ i < 8, ∀ j < 6, bitAt z (6 * i + j + 1)
      = Bool.xor (bitAt b (32 + ((4 * i + j + 31) % 32 + 1))) (bitAt k (6 * i + j + 1))) :
    xorBits (permute (rightHalf b) tableE) k = z :=
  eq_of_bitAt_chunks fun i hi j hj => by
    rw [bitAt_xorBits, bitAt_permute_tableE _ hi hj, bitAt_rightHalf, hz i hi j hj]

/-- R54, R80: SUBST on the state. -/
theorem exec_subst (s : State) : exec .subst s = .next (complete (s.writeY (substitute s.X)) 0x00) := rfl

/-- R54, R100: FFUNC on the state. -/
theorem exec_ffunc (s : State) :
    exec .ffunc s = .next (complete (s.writeY (roundFunction (rightHalf s.DI) s.X)) 0x00) := rfl

/-- Settles O13: the boxes are given `z` (`expanded_xor_subkey_eq`), and P moves what they answer (`bitAt_permute`). -/
theorem ffuncExpandsSubstitutesPermutes : Obligations.FfuncExpandsSubstitutesPermutes := by
  intro s z hz
  refine ⟨_, _, exec_ffunc s, exec_subst _, complete_STATUS _ _, fun i hi => ?_⟩
  calc bitAt (roundFunction (rightHalf s.DI) s.X) (i + 1)
    _ = bitAt (permute (substitute z) tableP) (i + 1) := by rw [roundFunction, expanded_xor_subkey_eq hz]
    _ = bitAt (substitute z) (tableP.entries.getD i 0) := bitAt_permute _ _ hi

/-! ### ROUND -/

/-- R103: what ROUND writes to `DO`, the new halves side by side. -/
def roundOutput (b : Block64) (k : Sub48) : Block64 :=
  (desRound (leftHalf b) (rightHalf b) k).1 ++ (desRound (leftHalf b) (rightHalf b) k).2

/-- R54, R103: ROUND on the state. -/
theorem exec_round (s : State) : exec .round s = .next (complete (s.writeDO (roundOutput s.DI s.X)) 0x00) := rfl

@[simp] theorem leftHalf_roundOutput (b : Block64) (k : Sub48) :
    leftHalf (roundOutput b k) = (desRound (leftHalf b) (rightHalf b) k).1 := leftHalf_append _ _

@[simp] theorem rightHalf_roundOutput (b : Block64) (k : Sub48) :
    rightHalf (roundOutput b k) = (desRound (leftHalf b) (rightHalf b) k).2 := rightHalf_append _ _

/-- Settles O14: the two halves that `desRound` gives, read by positions. -/
theorem roundExchangesAndMixesHalves : Obligations.RoundExchangesAndMixesHalves := by
  refine fun s => ⟨_, _, exec_round s, exec_ffunc s, complete_STATUS _ _, fun j hj => ?_, fun j hj => ?_⟩
  · calc bitAt (roundOutput s.DI s.X) (j + 1)
      _ = bitAt (rightHalf s.DI) (j + 1) := by rw [← bitAt_leftHalf _ hj, leftHalf_roundOutput, desRound]
      _ = bitAt s.DI (32 + (j + 1)) := bitAt_rightHalf _ j
  · calc bitAt (roundOutput s.DI s.X) (32 + (j + 1))
      _ = bitAt (xorBits (leftHalf s.DI) (roundFunction (rightHalf s.DI) s.X)) (j + 1) := by
        rw [← bitAt_rightHalf, rightHalf_roundOutput, desRound]
      _ = Bool.xor (bitAt s.DI (j + 1)) (bitAt (roundFunction (rightHalf s.DI) s.X) (j + 1)) := by
        rw [bitAt_xorBits, bitAt_leftHalf _ hj]

/-! ### ROUND undone -/

/-- R67: XOR with the same word twice gives the word back. -/
theorem xorBits_xorBits_cancel {n : Nat} (a b : BitVec n) : xorBits (xorBits a b) b = a := by
  rw [xorBits, xorBits, BitVec.xor_assoc, BitVec.xor_self, BitVec.xor_zero]

/-- R104: on the exchanged halves the round function has the same arguments, so the second XOR cancels the first. -/
theorem desRound_exchanged (l r : Half32) (k : Sub48) :
    desRound (desRound l r k).2 (desRound l r k).1 k = (r, l) := by
  simp only [desRound, xorBits_xorBits_cancel]

/-- R104 on a block: `desRound_exchanged` with the halves put together. -/
theorem roundOutput_exchanged (b : Block64) (k : Sub48) :
    roundOutput (rightHalf (roundOutput b k) ++ leftHalf (roundOutput b k)) k = rightHalf b ++ leftHalf b := by
  rw [roundOutput, leftHalf_append, rightHalf_append, leftHalf_roundOutput, rightHalf_roundOutput, desRound_exchanged]

/-- Settles O15: two ROUND commands are `roundOutput` twice, the second on the exchanged halves. -/
theorem exchangedRoundUndoesRound : Obligations.ExchangedRoundUndoesRound :=
  fun s => ⟨_, _, exec_round s, exec_round _, roundOutput_exchanged s.DI s.X⟩

end Sys2Proof.Machine
end

section
/-! PROOFS. The single-DES block cipher (44_des_block.md): FP and IP undo each other (R113), the sixteen rounds as ROUND
commands (R110, R111, R114), and DESENC and DESDEC undoing each other on words (R116) and on bit sequences (R115). -/

namespace Sys2Proof.Machine

open Sys2Proof.Spec

/-! ### IP and FP -/

/-- R65: a permutation is undone by a table that looks up, for every position, where the first table put it. -/
theorem permute_permute_cancel {n : Nat} {T U : PermTable n n}
    (hUT : ∀ i < n, T.entries.getD (U.entries.getD i 0 - 1) 0 = i + 1) (b : BitVec n) :
    permute (permute b T) U = b := by
  refine eq_of_bitAt fun i hi => ?_
  obtain ⟨h1, hn⟩ := permTable_getD_inRange U hi
  rw [bitAt_permute _ U hi, bitAt_permute_of_pos b T h1 hn, hUT i hi]

@[simp] theorem permute_tableFP_permute_tableIP (b : Block64) : permute (permute b tableIP) tableFP = b :=
  permute_permute_cancel (by decide) b

@[simp] theorem permute_tableIP_permute_tableFP (b : Block64) : permute (permute b tableFP) tableIP = b :=
  permute_permute_cancel (by decide) b

/-- Settles O16: each table of the two looks up where the other put a position. -/
theorem finalPermutationUndoesInitial : Obligations.FinalPermutationUndoesInitial :=
  fun b => ⟨permute_tableFP_permute_tableIP b, permute_tableIP_permute_tableFP b⟩

/-! ### The commands -/

/-- R54, R90: KSCHED on the state. -/
theorem exec_ksched (s : State) : exec .ksched s = .next (complete (s.writeSK (generateSubkeys s.K1)) 0x00) := rfl

/-- R54, R110: DESENC on the state. -/
theorem exec_desenc (s : State) : exec .desenc s = .next (complete (s.writeDO (desEncryptBlock s.DI s.K1)) 0x00) := rfl

/-- R54, R111: DESDEC on the state. -/
theorem exec_desdec (s : State) : exec .desdec s = .next (complete (s.writeDO (desDecryptBlock s.DI s.K1)) 0x00) := rfl

/-! ### Sixteen ROUND commands -/

/-- R45: two halves as the block that holds them. -/
def blockOfHalves (lr : Half32 × Half32) : Block64 := lr.1 ++ lr.2

theorem blockOfHalves_halvesOf (v : Block64) : blockOfHalves (halvesOf v) = permute v tableIP :=
  leftHalf_append_rightHalf _

/-- R103: a ROUND command on two halves. -/
theorem roundOutput_blockOfHalves (lr : Half32 × Half32) (k : Sub48) :
    roundOutput (blockOfHalves lr) k = blockOfHalves (desRound lr.1 lr.2 k) := by
  simp only [roundOutput, blockOfHalves, leftHalf_append, rightHalf_append]

section
variable {key : Key64} {o : SubkeyOrder} {b : Block64} {u v : Nat → State} (h0 : (u 0).DI = permute b tableIP)
  (hround : ∀ n : Fin 16, exec .round { u n with X := (generateSubkeys key)[subkeyIndex o n] } = .next (v n) ∧
    u (n + 1) = { v n with DI := (v n).DO })
include h0 hround

/-- R110, R111: after `j` ROUND commands, each on the block the one before it left, `DI` holds the halves after `j`
rounds. -/
theorem roundCommands_DI : ∀ j ≤ 16, (u j).DI = blockOfHalves (halvesAfter key o b j) := by
  intro j
  induction j with
  | zero => exact fun _ => h0.trans (blockOfHalves_halvesOf b).symm
  | succ j ih =>
    intro hj
    obtain ⟨hexec, hcopy⟩ := hround ⟨j, hj⟩
    have hDO : (v j).DO = roundOutput (u j).DI (generateSubkeys key)[subkeyIndex o ⟨j, hj⟩] := by
      rw [exec_round] at hexec
      exact (congrArg State.DO (Host.Outcome.next.inj hexec)).symm
    calc (u (j + 1)).DI
      _ = (v j).DO := congrArg State.DI hcopy
      _ = blockOfHalves (halvesAfter key o b (j + 1)) := by
        rw [hDO, ih (Nat.le_of_succ_le hj), roundOutput_blockOfHalves]
        exact congrArg blockOfHalves (halvesAfter_succ key o b ⟨j, hj⟩).symm

/-- R114: the block function is FP of the exchanged halves that the sixteenth ROUND command leaves. -/
theorem desBlock_eq_of_roundCommands :
    desBlock b key o = permute (rightHalf (u 16).DI ++ leftHalf (u 16).DI) tableFP := by
  rw [roundCommands_DI h0 hround 16 (Nat.le_refl 16), blockOfHalves, rightHalf_append, leftHalf_append,
    permute_halvesAfter_sixteen]

end

/-- Settles O17: the chain takes the subkeys in the order `forward` (`desBlock_eq_of_roundCommands`). -/
theorem desencIsSixteenRoundCommands : Obligations.DesencIsSixteenRoundCommands := by
  intro s t u v ht h0 hround
  obtain rfl := Host.Outcome.next.inj ((exec_ksched s).symm.trans ht)
  exact ⟨_, exec_desenc s, complete_STATUS _ _,
    desBlock_eq_of_roundCommands (o := .forward) (congrArg State.DI h0) hround⟩

/-- Settles O18: the chain takes the subkeys in the order `reverse` (`desBlock_eq_of_roundCommands`). -/
theorem desdecIsSixteenRoundCommandsReversed : Obligations.DesdecIsSixteenRoundCommandsReversed := by
  intro s t u v ht h0 hround
  obtain rfl := Host.Outcome.next.inj ((exec_ksched s).symm.trans ht)
  exact ⟨_, exec_desdec s, complete_STATUS _ _,
    desBlock_eq_of_roundCommands (o := .reverse) (congrArg State.DI h0) hround⟩

/-! ### The block cipher undone -/

/-- R116: on the exchanged halves the subkeys in reverse undo the rounds one by one, the last first (R104). -/
theorem desRounds_reverse_swap (ks : List Sub48) (lr : Half32 × Half32) :
    desRounds ks.reverse (desRounds ks lr).swap = lr.swap := by
  induction ks generalizing lr with
  | nil => rfl
  | cons k ks ih =>
    calc desRounds (k :: ks).reverse (desRounds (k :: ks) lr).swap
      _ = desRounds (ks.reverse ++ [k]) (desRounds ks (desRound lr.1 lr.2 k)).swap := by rw [List.reverse_cons]; rfl
      _ = desRounds [k] (desRound lr.1 lr.2 k).swap := by rw [desRounds_append, ih]
      _ = lr.swap := desRound_exchanged lr.1 lr.2 k

/-- R110, R114: an invocation on the halves as a pair. -/
theorem desBlock_eq_blockOfHalves (b : Block64) (key : Key64) (o : SubkeyOrder) :
    desBlock b key o = permute (blockOfHalves (desRounds (subkeysInOrder key o) (halvesOf b)).swap) tableFP := rfl

/-- R113: an invocation on what FP gave starts from the halves FP was given. -/
theorem halvesOf_permute_tableFP (lr : Half32 × Half32) : halvesOf (permute (blockOfHalves lr) tableFP) = lr := by
  rw [halvesOf, permute_tableIP_permute_tableFP, blockOfHalves, leftHalf_append, rightHalf_append]

/-- R116: two invocations with the subkeys in opposite orders give the block back. -/
theorem desBlock_desBlock_cancel {key : Key64} {o o' : SubkeyOrder}
    (hrev : subkeysInOrder key o' = (subkeysInOrder key o).reverse) (b : Block64) :
    desBlock (desBlock b key o) key o' = b := by
  rw [desBlock_eq_blockOfHalves b key o, desBlock_eq_blockOfHalves, halvesOf_permute_tableFP, hrev,
    desRounds_reverse_swap, Prod.swap_swap, blockOfHalves_halvesOf, permute_tableFP_permute_tableIP]

/-- R116: decryption undoes encryption. -/
@[simp] theorem desDecryptBlock_desEncryptBlock (b : Block64) (key : Key64) :
    desDecryptBlock (desEncryptBlock b key) key = b :=
  desBlock_desBlock_cancel rfl b

/-- R116: encryption undoes decryption. -/
@[simp] theorem desEncryptBlock_desDecryptBlock (b : Block64) (key : Key64) :
    desEncryptBlock (desDecryptBlock b key) key = b :=
  desBlock_desBlock_cancel (List.reverse_reverse _).symm b

/-- Settles O19: neither command writes `K1`, so both use the same subkeys, in opposite orders. -/
theorem desdecUndoesDesenc : Obligations.DesdecUndoesDesenc :=
  fun s => ⟨⟨_, _, exec_desenc s, exec_desdec _, desDecryptBlock_desEncryptBlock s.DI s.K1⟩,
    ⟨_, _, exec_desdec s, exec_desenc _, desEncryptBlock_desDecryptBlock s.DI s.K1⟩⟩

/-! ### The functions on bit sequences -/

/-- R115: a block function on bit sequences, behind the two length checks. -/
def checkedDes (function : FunctionName) (cipher : Block64 → Key64 → Block64) (b key : Bits) : Except Error Bits := do
  requireLength function 64 b
  requireLength function 64 key
  return toBits (cipher (ofBits 64 b) (ofBits 64 key))

theorem untypedDesEncryptBlock_eq : untypedDesEncryptBlock = checkedDes .desEncryptBlock desEncryptBlock := rfl

theorem untypedDesDecryptBlock_eq : untypedDesDecryptBlock = checkedDes .desDecryptBlock desDecryptBlock := rfl

theorem requireLength_of_eq {f : FunctionName} {n : Nat} {b : Bits} (h : b.length = n) : requireLength f n b = .ok () :=
  if_pos h

theorem requireLength_of_ne {f : FunctionName} {n : Nat} {b : Bits} (h : b.length ≠ n) :
    requireLength f n b = .error (.eLen f b.length) :=
  if_neg h

section
variable {f : FunctionName} {cipher : Block64 → Key64 → Block64} {b key : Bits}

/-- R158: the block's length is checked first. -/
theorem checkedDes_of_block_ne (h : b.length ≠ 64) : checkedDes f cipher b key = .error (.eLen f b.length) := by
  rw [checkedDes, requireLength_of_ne h]
  rfl

/-- R158: the key's length is checked when the block's is right. -/
theorem checkedDes_of_key_ne (hb : b.length = 64) (hk : key.length ≠ 64) :
    checkedDes f cipher b key = .error (.eLen f key.length) := by
  rw [checkedDes, requireLength_of_eq hb, requireLength_of_ne hk]
  rfl

theorem checkedDes_of_lengths (hb : b.length = 64) (hk : key.length = 64) :
    checkedDes f cipher b key = .ok (toBits (cipher (ofBits 64 b) (ofBits 64 key))) := by
  rw [checkedDes, requireLength_of_eq hb, requireLength_of_eq hk]
  rfl

/-- R115, R116: where one block function undoes another, so it does behind the length checks. -/
theorem checkedDes_undone {f' : FunctionName} {cipher' : Block64 → Key64 → Block64}
    (hundo : ∀ v k, cipher' (cipher v k) k = v) (hb : b.length = 64) (hk : key.length = 64) :
    ∃ c, checkedDes f cipher b key = .ok c ∧ c.length = 64 ∧ checkedDes f' cipher' c key = .ok b := by
  refine ⟨_, checkedDes_of_lengths hb hk, toBits_length _, ?_⟩
  rw [checkedDes_of_lengths (toBits_length _) hk, ofBits_toBits, hundo, toBits_ofBits hb]

end

/-- Settles O51: both functions are `checkedDes`, and the ciphers in them undo each other. -/
theorem untypedDesChecksLengths : Obligations.UntypedDesChecksLengths := by
  intro b key
  rw [untypedDesEncryptBlock_eq, untypedDesDecryptBlock_eq]
  refine ⟨fun hb => ?_, fun hb hk => ?_, fun hb hk => ?_⟩
  · exact ⟨checkedDes_of_block_ne hb, checkedDes_of_block_ne hb⟩
  · exact ⟨checkedDes_of_key_ne hb hk, checkedDes_of_key_ne hb hk⟩
  · exact ⟨checkedDes_undone desDecryptBlock_desEncryptBlock hb hk, checkedDes_undone desEncryptBlock_desDecryptBlock hb hk⟩

end Sys2Proof.Machine
end

section
/-! PROOFS. Triple DES (45_tdes_ecb.md section 1): TENC and TDEC as three single-DES commands (R120, R121), undoing each
other (R122 a), and with equal keys single DES (R122 b, R178). -/

namespace Sys2Proof.Machine

/-- R54, R120: TENC on the state. -/
theorem exec_tenc (s : State) :
    exec .tenc s = .next (complete (s.writeDO (tripleEncryptBlock s.DI s.K1 s.K2 s.K3)) 0x00) := rfl

/-- R54, R121: TDEC on the state. -/
theorem exec_tdec (s : State) :
    exec .tdec s = .next (complete (s.writeDO (tripleDecryptBlock s.DI s.K1 s.K2 s.K3)) 0x00) := rfl

/-- Settles O21: each command of the sequence leaves in `DO` one more invocation of the composition. -/
theorem tripleIsThreeDesCommands : Obligations.TripleIsThreeDesCommands :=
  fun s => ⟨⟨_, _, _, _, exec_desenc s, exec_desdec _, exec_desenc _, exec_tenc s, rfl, complete_STATUS _ _⟩,
    ⟨_, _, _, _, exec_desdec _, exec_desenc _, exec_desdec _, exec_tdec s, rfl, complete_STATUS _ _⟩⟩

section
variable (b : Block64) (k1 k2 k3 : Key64)

/-- R122 (a): the three invocations of TDEC undo those of TENC, the last first. -/
@[simp] theorem tripleDecryptBlock_tripleEncryptBlock :
    tripleDecryptBlock (tripleEncryptBlock b k1 k2 k3) k1 k2 k3 = b := by
  simp only [tripleDecryptBlock, tripleEncryptBlock, desDecryptBlock_desEncryptBlock, desEncryptBlock_desDecryptBlock]

/-- R122 (a), the other direction. -/
@[simp] theorem tripleEncryptBlock_tripleDecryptBlock :
    tripleEncryptBlock (tripleDecryptBlock b k1 k2 k3) k1 k2 k3 = b := by
  simp only [tripleDecryptBlock, tripleEncryptBlock, desDecryptBlock_desEncryptBlock, desEncryptBlock_desDecryptBlock]

/-- R122 (b): with K1 = K2 the first two invocations of TENC cancel. -/
theorem tripleEncryptBlock_of_first_equal : tripleEncryptBlock b k1 k1 k3 = desEncryptBlock b k3 :=
  congrArg (desEncryptBlock · k3) (desDecryptBlock_desEncryptBlock b k1)

/-- R122 (b): with K2 = K3 the last two invocations of TENC cancel. -/
theorem tripleEncryptBlock_of_last_equal : tripleEncryptBlock b k1 k3 k3 = desEncryptBlock b k1 :=
  desEncryptBlock_desDecryptBlock _ k3

/-- R122 (b): with K1 = K2 the last two invocations of TDEC cancel. -/
theorem tripleDecryptBlock_of_first_equal : tripleDecryptBlock b k1 k1 k3 = desDecryptBlock b k3 :=
  desDecryptBlock_desEncryptBlock _ k1

/-- R122 (b): with K2 = K3 the first two invocations of TDEC cancel. -/
theorem tripleDecryptBlock_of_last_equal : tripleDecryptBlock b k1 k3 k3 = desDecryptBlock b k1 :=
  congrArg (desDecryptBlock · k1) (desEncryptBlock_desDecryptBlock b k3)

end

/-- Settles O22: neither command writes a key, and the block functions undo each other. -/
theorem tdecUndoesTenc : Obligations.TdecUndoesTenc :=
  fun s => ⟨⟨_, _, exec_tenc s, exec_tdec _, tripleDecryptBlock_tripleEncryptBlock s.DI s.K1 s.K2 s.K3⟩,
    ⟨_, _, exec_tdec s, exec_tenc _, tripleEncryptBlock_tripleDecryptBlock s.DI s.K1 s.K2 s.K3⟩⟩

/-- Settles O23: the two invocations under the equal keys are neighbours and cancel. -/
theorem equalKeysCollapseToSingleDes : Obligations.EqualKeysCollapseToSingleDes := by
  refine fun s => ⟨fun h => ⟨_, _, _, _, exec_tenc s, exec_desenc _, ?_, exec_tdec s, exec_desdec _, ?_⟩,
    fun h => ⟨_, _, _, _, exec_tenc s, exec_desenc s, ?_, exec_tdec s, exec_desdec s, ?_⟩⟩ <;>
    simp only [complete_DO, State.writeDO_DO, h]
  · exact tripleEncryptBlock_of_first_equal s.DI s.K2 s.K3
  · exact tripleDecryptBlock_of_first_equal s.DI s.K2 s.K3
  · exact tripleEncryptBlock_of_last_equal s.DI s.K1 s.K3
  · exact tripleDecryptBlock_of_last_equal s.DI s.K1 s.K3

end Sys2Proof.Machine
end

section
/-! PROOFS. Messages in ECB mode (45_tdes_ecb.md sections 2 to 4): the output of a message operation as a list of bytes,
block by block; and what MENC and MDEC leave in `MO`, `MOLEN`, `STATUS` and `SB`. -/

namespace Sys2Proof.Machine

open Sys2Proof.Spec

/-! ### Blocks of bytes -/

/-- A block is a function of its own eight bytes. -/
theorem blockAt_congr {f g : Nat → Byte} {i : Nat} (h : ∀ a, 8 * i ≤ a → a < 8 * i + 8 → f a = g a) :
    blockAt f i = blockAt g i := by
  unfold blockAt
  congr 1
  all_goals exact h _ (by omega) (by omega)

/-- R123: block `i` of data, by the data's bytes. -/
theorem blocksOf_getD_eq_blockAt {data : List Byte} {i : Nat} (h : 8 * i + 8 ≤ data.length) :
    (blocksOf data).getD i 0 = blockAt (fun a => data.getD a 0) i :=
  blocksOf_getD data i h

/-- R127, R128, R131: a block of the output is the cipher of the same block of the data. -/
theorem blockAt_bytesOf_map (cipher : Block64 → Block64) {data : List Byte} {i : Nat} (h : 8 * i + 8 ≤ data.length) :
    blockAt (fun a => (bytesOf ((blocksOf data).map cipher)).getD a 0) i
      = cipher (blockAt (fun a => data.getD a 0) i) := by
  have hi : i < (blocksOf data).length := by rw [blocksOf_length]; omega
  have hout : 8 * i + 8 ≤ (bytesOf ((blocksOf data).map cipher)).length := by
    rw [bytesOf_length, List.length_map]
    omega
  rw [← blocksOf_getD_eq_blockAt h, ← blocksOf_getD_eq_blockAt hout, blocksOf_bytesOf]
  simp [List.getD, List.getElem?_eq_getElem hi]

theorem bytesOf_append (bs cs : List Block64) : bytesOf (bs ++ cs) = bytesOf bs ++ bytesOf cs :=
  List.flatMap_append

/-- Whole blocks in front are blocks in front. -/
theorem blocksOf_append {x y : List Byte} (hx : x.length % 8 = 0) (hy : y.length % 8 = 0) :
    blocksOf (x ++ y) = blocksOf x ++ blocksOf y := by
  calc blocksOf (x ++ y)
    _ = blocksOf (bytesOf (blocksOf x ++ blocksOf y)) := by
      rw [bytesOf_append, bytesOf_blocksOf x hx, bytesOf_blocksOf y hy]
    _ = blocksOf x ++ blocksOf y := blocksOf_bytesOf _

/-- R131: whole blocks in front are encrypted on their own. -/
theorem encryptBlocks_append {x y : List Byte} (hx : x.length % 8 = 0) (hy : y.length % 8 = 0) (k1 k2 k3 : Key64) :
    encryptBlocks (x ++ y) k1 k2 k3 = encryptBlocks x k1 k2 k3 ++ encryptBlocks y k1 k2 k3 := by
  simp only [encryptBlocks, blocksOf_append hx hy, List.map_append, bytesOf_append]

/-- R122 (a), R131: decryption undoes encryption on whole blocks. -/
theorem decryptBlocks_encryptBlocks {data : List Byte} (h : data.length % 8 = 0) (k1 k2 k3 : Key64) :
    decryptBlocks (encryptBlocks data k1 k2 k3) k1 k2 k3 = data := by
  simp only [decryptBlocks, encryptBlocks, blocksOf_bytesOf, List.map_map, Function.comp_def,
    tripleDecryptBlock_tripleEncryptBlock, List.map_id', bytesOf_blocksOf data h]

/-! ### Preparation and unpadding -/

/-- R125: whole blocks get no null fill. -/
theorem prepare_false_of_aligned {msg : List Byte} (h : msg.length % 8 = 0) : prepare msg false = msg := by
  simp only [prepare, h, ne_eq, not_true_eq_false, if_false, Bool.false_eq_true]

/-- R124: padding, appended whatever the length is. -/
theorem prepare_true (msg : List Byte) :
    prepare msg true = msg ++ List.replicate (8 - msg.length % 8) (BitVec.ofNat 8 (8 - msg.length % 8)) := rfl

/-- R124, R125: the length of prepared data. -/
theorem prepare_length (msg : List Byte) (p : Bool) : (prepare msg p).length = preparedLength p msg.length := by
  cases p with
  | false => exact prepare_false_length msg
  | true =>
    rw [prepare_true, List.length_append, List.length_replicate]
    simp only [preparedLength, if_true]
    omega

theorem preparedLength_mod (p : Bool) (n : Nat) : preparedLength p n % 8 = 0 := by
  cases p <;> exact Nat.mul_mod_right 8 _

theorem le_preparedLength (p : Bool) (n : Nat) : n ≤ preparedLength p n := by
  cases p <;> simp only [preparedLength, Bool.false_eq_true, if_false, if_true] <;> omega

/-- R129: a byte that unpadding leaves is the byte that was there. -/
theorem unpad_getD {out : List Byte} {a : Nat} (h : a < (unpad out).length) : (unpad out).getD a 0 = out.getD a 0 := by
  obtain ⟨n, hn⟩ := unpad_prefix out
  rw [hn, List.length_take] at h
  simp [hn, List.getD, List.getElem?_take_of_lt (Nat.lt_of_lt_of_le h (Nat.min_le_left _ _))]

/-- R124, R129: unpadding removes exactly the padding. -/
theorem unpad_prepare_true (msg : List Byte) : unpad (prepare msg true) = msg := by
  have hlen := prepare_length msg true
  simp only [preparedLength, if_true] at hlen
  rw [unpad_of_padding _ (8 - msg.length % 8) (by omega) (by omega) (by omega) fun j hj => ?_]
  · rw [prepare_true, List.length_append, List.length_replicate, Nat.add_sub_cancel, List.take_left]
  · rw [prepare_getD _ _ _ (by omega), if_neg (by omega), if_pos rfl, BitVec.toNat_ofNat]
    exact Nat.mod_eq_of_lt (by omega)

/-- R124, R125: byte `j` of the data an operation prepares. -/
theorem prepare_messageOperand_getD {p : Bool} {s : State} {j : Nat} (h : j < preparedLength p s.MILEN) :
    (prepare (messageOperand s) p).getD j 0 = preparedByte p s j := by
  rw [prepare_getD _ _ _ (by rwa [prepare_length, messageOperand_length]), messageOperand_length, preparedByte]
  by_cases hj : j < s.MILEN
  · rw [if_pos hj, if_pos hj, messageOperand_getD s j hj]
  · rw [if_neg hj, if_neg hj]

/-! ### The states MENC and MDEC leave -/

/-- R127: the bytes MENC puts out. -/
def mencOutput (p : Bool) (s : State) : List Byte := encryptBlocks (prepare (messageOperand s) p) s.K1 s.K2 s.K3

/-- R128: the bytes MDEC puts out. -/
def mdecOutput (p : Bool) (s : State) : List Byte :=
  if p then unpad (decryptBlocks (prepare (messageOperand s) false) s.K1 s.K2 s.K3)
  else decryptBlocks (prepare (messageOperand s) false) s.K1 s.K2 s.K3

/-- The state MENC leaves on a message that fits. -/
def mencState (p : Bool) (s : State) : State :=
  complete ((s.writeMessageOut (mencOutput p s)).writeSB (comparisonResult p s))
    (messageStatus s.MILEN (writesComparison p s.MILEN))

/-- The state MDEC leaves on a message that fits. -/
def mdecState (p : Bool) (s : State) : State :=
  complete (s.writeMessageOut (mdecOutput p s)) (messageStatus s.MILEN false)

theorem exec_menc_eq {p : Bool} {s : State} (h : fitsCapacity s.cfg s.MILEN = true) :
    exec (.menc p) s = .next (mencState p s) := exec_menc_of_fits h

theorem exec_mdec_eq {p : Bool} {s : State} (h : fitsCapacity s.cfg s.MILEN = true) :
    exec (.mdec p) s = .next (mdecState p s) := exec_mdec_of_fits h

section
variable (p : Bool) (s : State)

@[simp] theorem mencOutput_length : (mencOutput p s).length = preparedLength p s.MILEN := by
  rw [mencOutput, encryptBlocks_length, prepare_length, messageOperand_length]
  exact Nat.mul_div_cancel' (Nat.dvd_of_mod_eq_zero (preparedLength_mod p s.MILEN))

@[simp] theorem mencState_MOLEN : (mencState p s).MOLEN = preparedLength p s.MILEN := mencOutput_length p s

@[simp] theorem mencState_STATUS :
    (mencState p s).STATUS = messageStatus s.MILEN (writesComparison p s.MILEN) := rfl

@[simp] theorem mencState_SB : (mencState p s).SB = comparisonResult p s := rfl

@[simp] theorem mencState_K1 : (mencState p s).K1 = s.K1 := rfl

@[simp] theorem mencState_K2 : (mencState p s).K2 = s.K2 := rfl

@[simp] theorem mencState_K3 : (mencState p s).K3 = s.K3 := rfl

@[simp] theorem mencState_cfg : (mencState p s).cfg = s.cfg := rfl

@[simp] theorem messageOut_mencState : messageOut (mencState p s) = mencOutput p s :=
  messageOut_writeMessageOut s _

@[simp] theorem mdecState_MOLEN : (mdecState p s).MOLEN = (mdecOutput p s).length := rfl

@[simp] theorem mdecState_STATUS : (mdecState p s).STATUS = messageStatus s.MILEN false := rfl

@[simp] theorem messageOut_mdecState : messageOut (mdecState p s) = mdecOutput p s :=
  messageOut_writeMessageOut s _

end

variable {p : Bool} {s : State} {a i : Nat}

/-- R128: MDEC's output without unpadding is the null-filled message's length. -/
theorem mdecOutput_false_length : (mdecOutput false s).length = preparedLength false s.MILEN := by
  rw [mdecOutput, if_neg Bool.false_ne_true, decryptBlocks_length, prepare_length, messageOperand_length]
  exact Nat.mul_div_cancel' (Nat.dvd_of_mod_eq_zero (preparedLength_mod false s.MILEN))

/-- R129: with `P = 1` MDEC puts out the unpadded output of MDEC. -/
theorem mdecOutput_true : mdecOutput true s = unpad (mdecOutput false s) := rfl

/-- R129: MDEC.P's output is no longer than MDEC's. -/
theorem mdecOutput_length_le : (mdecOutput p s).length ≤ (mdecOutput false s).length := by
  cases p with
  | false => exact Nat.le_refl _
  | true => exact unpad_length_le _

/-- R129: where MDEC.P puts out a byte, it is MDEC's. -/
theorem mdecOutput_getD (h : a < (mdecOutput p s).length) :
    (mdecOutput p s).getD a 0 = (mdecOutput false s).getD a 0 := by
  cases p with
  | false => rfl
  | true => exact unpad_getD h

/-- Below `MOLEN`, `MO` holds what MENC put out. -/
theorem moByte_mencState (h : a < preparedLength p s.MILEN) : moByte (mencState p s) a = (mencOutput p s).getD a 0 := by
  rw [← messageOut_mencState, messageOut_getD _ _ (by rwa [mencState_MOLEN])]

/-- Below `MOLEN`, `MO` holds what MDEC put out. -/
theorem moByte_mdecState (h : a < (mdecOutput p s).length) : moByte (mdecState p s) a = (mdecOutput p s).getD a 0 := by
  rw [← messageOut_mdecState, messageOut_getD _ _ h]

/-- R127, R131: block `i` of MENC's output is the encryption of block `i` of the prepared message. -/
theorem blockAt_mencState (h : 8 * i + 8 ≤ preparedLength p s.MILEN) :
    blockAt (moByte (mencState p s)) i = tripleEncryptBlock (blockAt (preparedByte p s) i) s.K1 s.K2 s.K3 := by
  calc blockAt (moByte (mencState p s)) i
    _ = blockAt (fun a => (mencOutput p s).getD a 0) i := blockAt_congr fun a _ ha => moByte_mencState (by omega)
    _ = tripleEncryptBlock (blockAt (fun a => (prepare (messageOperand s) p).getD a 0) i) s.K1 s.K2 s.K3 :=
      blockAt_bytesOf_map _ (by rwa [prepare_length, messageOperand_length])
    _ = tripleEncryptBlock (blockAt (preparedByte p s) i) s.K1 s.K2 s.K3 := by
      rw [blockAt_congr fun a _ ha => prepare_messageOperand_getD (by omega)]

/-- R128, R131: a whole block `i` of MDEC's output is the decryption of block `i` of the null-filled message. -/
theorem blockAt_mdecState (h : 8 * i + 8 ≤ (mdecOutput p s).length) :
    blockAt (moByte (mdecState p s)) i = tripleDecryptBlock (blockAt (preparedByte false s) i) s.K1 s.K2 s.K3 := by
  have hlen : 8 * i + 8 ≤ preparedLength false s.MILEN := mdecOutput_false_length ▸ h.trans mdecOutput_length_le
  calc blockAt (moByte (mdecState p s)) i
    _ = blockAt (fun a => (mdecOutput false s).getD a 0) i :=
      blockAt_congr fun a _ ha => (moByte_mdecState (by omega)).trans (mdecOutput_getD (by omega))
    _ = tripleDecryptBlock (blockAt (fun a => (prepare (messageOperand s) false).getD a 0) i) s.K1 s.K2 s.K3 :=
      blockAt_bytesOf_map _ (by rwa [prepare_length, messageOperand_length])
    _ = tripleDecryptBlock (blockAt (preparedByte false s) i) s.K1 s.K2 s.K3 := by
      rw [blockAt_congr fun a _ ha => prepare_messageOperand_getD (by omega)]

end Sys2Proof.Machine
end

section
/-! PROOFS. What MENC and MDEC do with a message that fits, and the two one after the other (45_tdes_ecb.md R123 to R131,
R138). -/

namespace Sys2Proof.Machine

open Sys2Proof.Spec

/-! ### Length and blocks -/

/-- R123, R127: MENC's output is whole blocks, so every block that begins in it is one of them. -/
theorem blockAt_mencState_of_lt {p : Bool} {s : State} {i : Nat} (h : 8 * i < (mencState p s).MOLEN) :
    blockAt (moByte (mencState p s)) i = tripleEncryptBlock (blockAt (preparedByte p s) i) s.K1 s.K2 s.K3 := by
  have hmod := preparedLength_mod p s.MILEN
  rw [mencState_MOLEN] at h
  exact blockAt_mencState (by omega)

/-- Settles O28: the length of the prepared message, and `blockAt_mencState_of_lt`. -/
theorem mencEncryptsEachBlock : Obligations.MencEncryptsEachBlock :=
  fun p s hf => ⟨_, exec_menc_eq hf, mencState_MOLEN p s, fun _ hi => blockAt_mencState_of_lt hi⟩

/-- Settles O29: unpadding only shortens the output, whose blocks are `blockAt_mdecState`. -/
theorem mdecDecryptsEachBlock : Obligations.MdecDecryptsEachBlock := by
  refine fun p s hf => ⟨_, exec_mdec_eq hf, ?_, ?_, fun i hi => blockAt_mdecState hi⟩
  · exact mdecOutput_length_le.trans mdecOutput_false_length.le
  · rintro rfl
    exact mdecOutput_false_length

/-- Settles O33: a block of either output is the cipher of its prepared block, under the same keys. -/
theorem equalBlocksGiveEqualBlocks : Obligations.EqualBlocksGiveEqualBlocks := by
  refine fun p p' s s' hf hf' h1 h2 h3 => ⟨⟨_, _, exec_menc_eq hf, exec_menc_eq hf', fun i i' hi hi' hb => ?_⟩,
    _, _, exec_mdec_eq hf, exec_mdec_eq hf', fun i i' hi hi' hb => ?_⟩
  · rw [mencState_MOLEN] at hi hi'
    rw [blockAt_mencState hi, blockAt_mencState hi', hb, h1, h2, h3]
  · rw [blockAt_mdecState hi, blockAt_mdecState hi', hb, h1, h2, h3]

/-! ### Status and comparison result -/

@[simp] theorem padNeededOf_messageStatus (n : Nat) (b : Bool) : padNeededOf (messageStatus n b) = !messageAligned n := by
  unfold messageStatus
  cases b <;> cases messageAligned n <;> rfl

@[simp] theorem alignedOf_messageStatus (n : Nat) (b : Bool) : alignedOf (messageStatus n b) = messageAligned n := by
  unfold messageStatus
  cases b <;> cases messageAligned n <;> rfl

/-- R20: bit 3 of `STATUS` is 0, and a message operation that fits leaves `ECODE` 0. -/
theorem messageStatus_reserved (n : Nat) (b : Bool) :
    (messageStatus n b).getLsbD 3 = false ∧ (messageStatus n b).extractLsb' 4 4 = 0 := by
  unfold messageStatus
  cases b <;> cases messageAligned n <;> decide

theorem writesComparison_iff {p : Bool} {n : Nat} : writesComparison p n = true ↔ p = true ∧ n = 8 := by
  simp only [writesComparison, Bool.and_eq_true, beq_iff_eq]

/-- R126: `PADNEEDED` and `ALIGNED` say whether the length is a multiple of 8. -/
theorem messageStatus_alignment (n : Nat) (b : Bool) :
    (padNeededOf (messageStatus n b) = true ↔ n % 8 ≠ 0) ∧ (alignedOf (messageStatus n b) = true ↔ n % 8 = 0) := by
  simp [messageAligned]

/-- Settles O31: MENC and MDEC leave a `messageStatus`, with SBVALID as R130 says. -/
theorem messageStatusFields : Obligations.MessageStatusFields := by
  rintro i p s (rfl | rfl) hf
  · obtain ⟨hpad, haligned⟩ := messageStatus_alignment s.MILEN (writesComparison p s.MILEN)
    refine ⟨_, exec_menc_eq hf, hpad, haligned, ?_, messageStatus_reserved _ _⟩
    rw [mencState_STATUS, Instr.menc.injEq, ← writesComparison_iff]
    exact iff_of_eq (congrArg (· = true) (sbValidOf_messageStatus _ _))
  · obtain ⟨hpad, haligned⟩ := messageStatus_alignment s.MILEN false
    refine ⟨_, exec_mdec_eq hf, hpad, haligned, ?_, messageStatus_reserved _ _⟩
    rw [mdecState_STATUS]
    exact ⟨fun h => absurd ((sbValidOf_messageStatus _ _).symm.trans h) Bool.false_ne_true, fun h => nomatch h.1⟩

/-- R130: on exactly 8 bytes MENC.P's comparison result is the encryption of the message. -/
theorem comparisonResult_of_eight {s : State} (h8 : s.MILEN = 8) :
    comparisonResult true s = tripleEncryptBlock (blockAt (miByte s) 0) s.K1 s.K2 s.K3 :=
  if_pos (writesComparison_iff.2 ⟨rfl, h8⟩)

/-- R130: the comparison result is the first block of the same command's output. -/
theorem comparisonResult_eq_blockAt {s : State} (h8 : s.MILEN = 8) :
    comparisonResult true s = blockAt (moByte (mencState true s)) 0 := by
  have hfirst : blockAt (preparedByte true s) 0 = blockAt (miByte s) 0 :=
    blockAt_congr fun a _ ha => if_pos (by omega)
  rw [comparisonResult_of_eight h8, blockAt_mencState (by rw [h8]; decide), hfirst]

/-- Settles O32: the comparison result is the encryption of the message, and the first block of `MO`. -/
theorem comparisonResultIsFirstBlock : Obligations.ComparisonResultIsFirstBlock := by
  refine fun s hf h8 => ⟨_, exec_menc_eq hf, ?_, comparisonResult_of_eight h8, comparisonResult_eq_blockAt h8⟩
  rw [mencState_STATUS, writesComparison_iff.2 ⟨rfl, h8⟩]
  exact sbValidOf_messageStatus _ _

/-! ### Padding -/

/-- Byte `j` from the end of MDEC's output, as `unpad` looks at it (R129). -/
theorem mdecOutput_getD_from_end {s : State} {j : Nat} (hj : j < (mdecState false s).MOLEN) :
    (mdecOutput false s).getD ((mdecOutput false s).length - 1 - j) 0
      = moByte (mdecState false s) ((mdecState false s).MOLEN - 1 - j) := by
  rw [mdecState_MOLEN] at *
  exact (moByte_mdecState (by omega)).symm

/-- Settles O30: MDEC.P unpads MDEC's output (`unpad_of_padding`, `unpad_cases`). -/
theorem mdecPStripsExactlyThePadding : Obligations.MdecPStripsExactlyThePadding := by
  refine fun s hf => ⟨_, _, exec_mdec_eq hf, exec_mdec_eq hf, fun a ha => ?_, fun n h1 h8 hn hpad => ?_,
    fun hnone => ?_⟩
  · rw [mdecState_MOLEN] at ha
    rw [moByte_mdecState ha, mdecOutput_getD ha, moByte_mdecState (Nat.lt_of_lt_of_le ha mdecOutput_length_le)]
  · have hunpad := unpad_of_padding (mdecOutput false s) n h1 h8 hn fun j hj => by
      rw [mdecOutput_getD_from_end (by omega), hpad j hj]
    rw [mdecState_MOLEN, mdecOutput_true, hunpad, List.length_take, mdecState_MOLEN]
    omega
  · rcases unpad_cases (mdecOutput false s) with h | ⟨n, h1, h8, hn, hpad, -⟩
    · exact congrArg List.length h
    · refine absurd ⟨n, h1, h8, hn, fun j hj => ?_⟩ hnone
      rw [← mdecOutput_getD_from_end (Nat.lt_of_lt_of_le hj hn), hpad j hj]

/-- R124: on whole blocks padding is one more block. -/
theorem prepare_true_of_aligned {msg : List Byte} (h : msg.length % 8 = 0) :
    prepare msg true = prepare msg false ++ List.replicate 8 8 := by
  rw [prepare_true, prepare_false_of_aligned h, h]
  rfl

/-- R124, R127: on whole blocks MENC.P puts out MENC's bytes and one more block. -/
theorem mencOutput_true_of_aligned {s : State} (h : s.MILEN % 8 = 0) :
    mencOutput true s = mencOutput false s ++ encryptBlocks (List.replicate 8 8) s.K1 s.K2 s.K3 := by
  rw [← messageOperand_length s] at h
  rw [mencOutput, mencOutput, prepare_true_of_aligned h, encryptBlocks_append (prepare_length_mod _ _) (by decide)]

/-- Settles O34: MENC.P's bytes are MENC's with one more block, whose prepared bytes are the padding. -/
theorem paddingAddsWholeBlockToAlignedMessage : Obligations.PaddingAddsWholeBlockToAlignedMessage := by
  intro s hf h
  have hlen : preparedLength false s.MILEN = s.MILEN ∧ preparedLength true s.MILEN = s.MILEN + 8 := by
    simp only [preparedLength, Bool.false_eq_true, if_false, if_true]
    omega
  refine ⟨_, _, exec_menc_eq hf, exec_menc_eq hf, ?_, fun a ha => ?_, ?_⟩
  · rw [mencState_MOLEN, mencState_MOLEN, hlen.1, hlen.2]
  · rw [mencState_MOLEN] at ha
    have hout : a < (mencOutput false s).length := by rwa [mencOutput_length]
    rw [moByte_mencState ha, moByte_mencState (by omega), mencOutput_true_of_aligned h, List.getD_append _ _ _ _ hout]
  · have hpad : blockAt (preparedByte true s) (s.MILEN / 8) = 0x0808080808080808 := by
      refine (blockAt_congr (g := fun _ => 8) fun a ha _ => ?_).trans (by decide : bytesToBlock 8 8 8 8 8 8 8 8 = _)
      rw [preparedByte, if_neg (by omega), if_pos rfl, h]
      rfl
    rw [blockAt_mencState (by omega), hpad]

/-! ### Round trips -/

/-- R122 (a), R131: MDEC of MENC's output under the same keys is the prepared message. -/
theorem mdecOutput_of_mencOutput {p : Bool} {s u : State} (hm : messageOperand u = mencOutput p s) (h1 : u.K1 = s.K1)
    (h2 : u.K2 = s.K2) (h3 : u.K3 = s.K3) : mdecOutput false u = prepare (messageOperand s) p := by
  have hout : (mencOutput p s).length % 8 = 0 := by rw [mencOutput_length, preparedLength_mod]
  calc mdecOutput false u
    _ = decryptBlocks (prepare (messageOperand u) false) u.K1 u.K2 u.K3 := rfl
    _ = decryptBlocks (mencOutput p s) s.K1 s.K2 s.K3 := by rw [hm, prepare_false_of_aligned hout, h1, h2, h3]
    _ = prepare (messageOperand s) p := decryptBlocks_encryptBlocks (prepare_length_mod _ _) _ _ _

/-- The state MENC leaves, with its output written back by the host as the next message. -/
def writtenBack (p : Bool) (s : State) : State := (mencState p s).writeMessageIn (mencOutput p s)

section
variable {p : Bool} {s : State} (hf : fitsCapacity s.cfg (preparedLength p s.MILEN) = true)
include hf

/-- A message whose prepared form fits, fits. -/
theorem exec_menc_of_preparedLength : exec (.menc p) s = .next (mencState p s) :=
  exec_menc_eq (fitsCapacity_of_le (le_preparedLength p s.MILEN) hf)

/-- MDEC runs on MENC's output, which fits as the prepared message does. -/
theorem exec_mdec_writtenBack (p' : Bool) :
    exec (.mdec p') ((mencState p s).writeMessageIn (messageOut (mencState p s)))
      = .next (mdecState p' (writtenBack p s)) := by
  rw [messageOut_mencState]
  exact exec_mdec_eq (by simpa using hf)

/-- R122 (a), R131: MDEC of MENC's output, written back by the host, is the prepared message. -/
theorem mdecOutput_writtenBack : mdecOutput false (writtenBack p s) = prepare (messageOperand s) p :=
  mdecOutput_of_mencOutput (messageOperand_writeMessageIn _ _ (by simpa using hf)) (by simp [writtenBack])
    (by simp [writtenBack]) (by simp [writtenBack])

end

/-- Settles O35: the decrypted blocks are the padded message, and unpadding removes the padding. -/
theorem paddedMessageRoundTrip : Obligations.PaddedMessageRoundTrip := by
  intro s hf
  have hout : mdecOutput true (writtenBack true s) = messageOperand s := by
    rw [mdecOutput_true, mdecOutput_writtenBack (p := true) hf, unpad_prepare_true]
  have hlen : (mdecOutput true (writtenBack true s)).length = s.MILEN := by rw [hout, messageOperand_length]
  refine ⟨_, _, exec_menc_of_preparedLength (p := true) hf, exec_mdec_writtenBack (p := true) hf true,
    (mdecState_MOLEN _ _).trans hlen, fun a ha => ?_⟩
  rw [moByte_mdecState (hlen.symm ▸ ha), hout, messageOperand_getD s a ha]

/-- Settles O36: the decrypted blocks are the null-filled message. -/
theorem unpaddedRoundTripKeepsNullFill : Obligations.UnpaddedRoundTripKeepsNullFill := by
  intro s hf
  have hout : mdecOutput false (writtenBack false s) = prepare (messageOperand s) false :=
    mdecOutput_writtenBack (p := false) hf
  have hlen : (mdecOutput false (writtenBack false s)).length = preparedLength false s.MILEN := by
    rw [hout, prepare_length, messageOperand_length]
  have hbyte : ∀ a < preparedLength false s.MILEN,
      moByte (mdecState false (writtenBack false s)) a = preparedByte false s a := fun a ha => by
    rw [moByte_mdecState (hlen.symm ▸ ha), hout, prepare_messageOperand_getD ha]
  refine ⟨_, _, exec_menc_of_preparedLength (p := false) hf, exec_mdec_writtenBack (p := false) hf false,
    (mdecState_MOLEN _ _).trans hlen, fun a ha => ?_, fun a ha hlt => ?_⟩
  · rw [hbyte a (Nat.lt_of_lt_of_le ha (le_preparedLength _ _)), preparedByte, if_pos ha]
  · rw [mdecState_MOLEN, hlen] at hlt
    rw [hbyte a hlt, preparedByte, if_neg ha.not_gt, if_neg Bool.false_ne_true]

end Sys2Proof.Machine
end

section
/-! PROOFS. The host adapter (45_tdes_ecb.md section 5): the sanitising filter hides padding (R137), the keys of R132, what
ENCRYPT returns (R135), and DECRYPT of its output (R136, R138). -/

namespace Sys2Proof.Machine

open Sys2Proof.Spec

/-! ### The sanitising filter -/

/-- R134: the bytes of a padding or of a null fill do not pass the filter. -/
theorem printable_of_le_eight {b : Byte} (h : b.toNat ≤ 8) : printable b = false := by
  simp only [printable, Bool.or_eq_false_iff, decide_eq_false_iff_not, beq_eq_false_iff_ne]
  omega

theorem sanitize_append (x y : List Byte) : sanitize (x ++ y) = sanitize x ++ sanitize y := List.filter_append x y

theorem sanitize_of_le_eight {bs : List Byte} (h : ∀ b ∈ bs, b.toNat ≤ 8) : sanitize bs = [] :=
  List.filter_eq_nil_iff.2 fun b hb => by simp [printable_of_le_eight (h b hb)]

/-- R137: the bytes that unpadding strips would not have passed the filter. -/
theorem sanitize_unpad (out : List Byte) : sanitize (unpad out) = sanitize out := by
  rcases unpad_cases out with h | ⟨n, _, h8, hn, hpad, h⟩
  · rw [h]
  · have hdrop : sanitize (out.drop (out.length - n)) = [] := by
      refine sanitize_of_le_eight fun b hb => ?_
      obtain ⟨j, hj, rfl⟩ := List.mem_drop_iff_getElem.1 hb
      have hlast := hpad (n - 1 - j) (by omega)
      have hpos : out.length - 1 - (n - 1 - j) = out.length - n + j := by omega
      rw [hpos, List.getD_eq_getElem _ _ (by omega)] at hlast
      omega
    calc sanitize (unpad out)
      _ = sanitize (out.take (out.length - n)) ++ sanitize (out.drop (out.length - n)) := by
        rw [h, hdrop, List.append_nil]
      _ = sanitize out := by rw [← sanitize_append, List.take_append_drop]

/-- R137: filtered bytes do not end in a padding. -/
theorem unpad_sanitize (out : List Byte) : unpad (sanitize out) = sanitize out := by
  rcases unpad_cases (sanitize out) with h | ⟨n, h1, h8, hn, hpad, _⟩
  · exact h
  · have hlast := hpad 0 h1
    have hlt : (sanitize out).length - 1 - 0 < (sanitize out).length := by omega
    rw [List.getD_eq_getElem _ _ hlt] at hlast
    have hprint := (List.mem_filter.1 (List.getElem_mem hlt)).2
    rw [printable_of_le_eight (hlast.trans_le h8)] at hprint
    exact absurd hprint Bool.false_ne_true

/-- Settles O54: `sanitize_unpad` and `unpad_sanitize`. -/
theorem sanitizeHidesUnpad : Obligations.SanitizeHidesUnpad :=
  fun out => ⟨sanitize_unpad out, unpad_sanitize out⟩

/-- R124, R125, R134: what preparation appends does not pass the filter. -/
theorem sanitize_prepare (msg : List Byte) (p : Bool) : sanitize (prepare msg p) = sanitize msg := by
  cases p with
  | true => rw [← sanitize_unpad, unpad_prepare_true]
  | false =>
    simp only [prepare, Bool.false_eq_true, if_false]
    split
    · have hfill : ∀ b ∈ List.replicate (8 - msg.length % 8) (0 : Byte), b.toNat ≤ 8 := fun b hb => by
        rw [List.eq_of_mem_replicate hb]
        decide
      rw [sanitize_append, sanitize_of_le_eight hfill, List.append_nil]
    · rfl

/-- R129, R137: whatever MDEC's padding flag is, the same bytes pass the filter. -/
theorem sanitize_mdecOutput (p : Bool) (s : State) : sanitize (mdecOutput p s) = sanitize (mdecOutput false s) := by
  cases p with
  | false => rfl
  | true => exact sanitize_unpad _

/-- R134: on the bytes of a text of single-byte characters the filter drops the characters it would drop of the text. -/
theorem bytesToText_sanitize {t : Text} (h : allSingleByte t) :
    bytesToText (sanitize (t.map (BitVec.ofNat 8))) = t.filter keepsCharacter := by
  have hkeeps : ∀ c ∈ t, (printable ∘ BitVec.ofNat 8) c = keepsCharacter c := fun c hc => by
    have hbyte : c % 2 ^ 8 = c := Nat.mod_eq_of_lt (Nat.lt_succ_of_le (h c hc))
    simp only [Function.comp_apply, printable, keepsCharacter, BitVec.toNat_ofNat, hbyte]
  rw [sanitize, List.filter_map, List.filter_congr hkeeps]
  exact bytesToText_map_ofNat fun c hc => h c (List.mem_filter.1 hc).1

/-! ### Bits and digits of a block in front -/

theorem bytesToBits_append (x y : List Byte) : bytesToBits (x ++ y) = bytesToBits x ++ bytesToBits y := List.flatMap_append

/-- 20_memory.md R32: eight bytes in front are a block in front. -/
theorem bytesToBits_eq_toBits_append {l : List Byte} (h : 8 ≤ l.length) :
    bytesToBits l = toBits (blockAt (fun a => l.getD a 0) 0) ++ bytesToBits (l.drop 8) := by
  match l, h with
  | b1 :: b2 :: b3 :: b4 :: b5 :: b6 :: b7 :: b8 :: rest, _ =>
    exact (bytesToBits_append [b1, b2, b3, b4, b5, b6, b7, b8] rest).trans
      (congrArg (· ++ bytesToBits rest) (toBits_bytesToBlock b1 b2 b3 b4 b5 b6 b7 b8).symm)

/-- R68: the vector of eight bytes is their block. -/
theorem ofBits_bytesToBits {l : List Byte} (h : l.length = 8) :
    ofBits 64 (bytesToBits l) = blockAt (fun a => l.getD a 0) 0 := by
  have hnil : bytesToBits (l.drop 8) = [] := by rw [List.drop_eq_nil_of_le h.le]; rfl
  rw [bytesToBits_eq_toBits_append h.ge, hnil, List.append_nil, ofBits_toBits]

/-- R73: the digits of a concatenation of whole nibbles. -/
theorem bitsToHex_append {b c : Bits} {h g : Text} (hb : bitsToHex b = some h) (hc : bitsToHex c = some g) :
    bitsToHex (b ++ c) = some (h ++ g) :=
  bitsToHex_induction (P := fun b h => bitsToHex (b ++ c) = some (h ++ g)) hb hc
    fun b1 b2 b3 b4 _ _ ih => bitsToHex_nibble_append (n := [b1, b2, b3, b4]) rfl ih

/-- R130, R135: the digits of the first block are the first sixteen digits. -/
theorem take_sixteen_of_bitsToHex {l : List Byte} {hex blockHex : Text} (h : 8 ≤ l.length)
    (hhex : bitsToHex (bytesToBits l) = some hex)
    (hblock : bitsToHex (toBits (blockAt (fun a => l.getD a 0) 0)) = some blockHex) : hex.take 16 = blockHex := by
  have hlen : blockHex.length = 16 := by
    have := length_of_bitsToHex hblock
    rw [toBits_length] at this
    omega
  obtain ⟨rest, hrest⟩ := exists_bitsToHex (bytesToBits (l.drop 8)) (by rw [bytesToBits_length]; omega)
  rw [bytesToBits_eq_toBits_append h, bitsToHex_append hblock hrest] at hhex
  rw [← Option.some.inj hhex, ← hlen, List.take_left]

/-- R73: every digit written is a digit. -/
theorem isSome_hexValue_of_bitsToHex {b : Bits} {h : Text} (hb : bitsToHex b = some h) : ∀ c ∈ h, (hexValue c).isSome :=
  bitsToHex_induction (P := fun _ h => ∀ c ∈ h, (hexValue c).isSome) hb (fun _ hc => nomatch hc)
    fun b1 b2 b3 b4 _ _ ih => List.forall_mem_cons.2
      ⟨Option.isSome_of_eq_some (hexValue_hexDigit _ (val_nibble_lt b1 b2 b3 b4)), ih⟩

/-- R133: the digits of bytes are clean as they are. -/
theorem cleanHex_of_bitsToHex {bs : List Byte} {h : Text} (hb : bitsToHex (bytesToBits bs) = some h) :
    cleanHex h = h := by
  have hkept : (h.filter fun c => (hexValue c).isSome) = h := List.filter_eq_self.2 (isSome_hexValue_of_bitsToHex hb)
  have hlen := length_of_bitsToHex hb
  rw [bytesToBits_length] at hlen
  simp only [cleanHex, hkept]
  exact if_neg (by omega)

/-! ### Keys and plaintext -/

/-- R70: a text of single-byte characters as bits. -/
theorem textToBits_of_allSingleByte {t : Text} (h : allSingleByte t) :
    textToBits t = .ok (bytesToBits (t.map (BitVec.ofNat 8))) := by
  rw [textToBits, textToBytes_of_allSingleByte h]
  rfl

theorem normalizeKey_length (key : Text) : (normalizeKey key).length = 8 := by
  rw [normalizeKey, List.length_append, List.length_take, List.length_replicate]
  omega

/-- R132: a character of a normalised key, or a space. -/
theorem normalizeKey_getD (key : Text) {j : Nat} (h : j < 8) : (normalizeKey key).getD j 32 = key.getD j 32 := by
  by_cases hj : j < key.length
  · rw [normalizeKey, List.getD_append _ _ _ _ (by rw [List.length_take]; omega)]
    simp [List.getD, h]
  · have hle : (key.take 8).length ≤ j := by rw [List.length_take]; omega
    rw [normalizeKey, List.getD_append_right _ _ _ _ hle, List.getD_eq_default _ _ (Nat.le_of_not_lt hj)]
    exact List.getElem?_getD_replicate_default_eq _ _ _

theorem allSingleByte_normalizeKey {key : Text} (h : allSingleByte (key.take 8)) : allSingleByte (normalizeKey key) :=
  fun c hc => (List.mem_append.1 hc).elim (h c) fun hspace => (List.eq_of_mem_replicate hspace).trans_le (by decide)

/-- R132: the 64-bit key is made of the characters of the normalised key. -/
theorem keyFromText_of_allSingleByte {key : Text} (h : allSingleByte (key.take 8)) :
    keyFromText key = .ok (keyOfCharacters key) := by
  have hlen : ((normalizeKey key).map (BitVec.ofNat 8)).length = 8 := by rw [List.length_map, normalizeKey_length]
  rw [keyFromText, textToBits_of_allSingleByte (allSingleByte_normalizeKey h)]
  refine congrArg Except.ok ((ofBits_bytesToBits hlen).trans (blockAt_congr fun a _ ha => ?_))
  rw [← normalizeKey_getD key (by omega)]
  simp [List.getD, show a < (normalizeKey key).length by rw [normalizeKey_length]; omega]

/-- R132: the keys made of the characters of three key strings. -/
def keysOfCharacters (key1 key2 key3 : Text) : Key64 × Key64 × Key64 :=
  (keyOfCharacters key1, keyOfCharacters key2, keyOfCharacters key3)

/-- R132: the keys the adapter loads. -/
theorem adapterKeys_of_allSingleByte {key1 key2 key3 : Text} (h1 : allSingleByte (key1.take 8))
    (h2 : allSingleByte (key2.take 8)) (h3 : allSingleByte (key3.take 8)) :
    adapterKeys key1 key2 key3 = .ok (keysOfCharacters key1 key2 key3) := by
  rw [adapterKeys, keyFromText_of_allSingleByte h1, keyFromText_of_allSingleByte h2, keyFromText_of_allSingleByte h3]
  rfl

/-! ### The adapter's actions -/

/-- The state in which the adapter's command starts: the keys loaded and the message written (30_encoding.md R56). -/
def loaded (keys : Key64 × Key64 × Key64) (message : List Byte) (s : State) : State :=
  ((s.withKeys keys.1 keys.2.1 keys.2.2).writeMessageIn message).withReply .completed

/-- 30_encoding.md R56: the adapter's actions are its command on the loaded state. -/
theorem serveAll_adapterScript (keys : Key64 × Key64 × Key64) (message : List Byte) (i : Instr) (s : State) :
    serveAll (adapterScript keys message i) s = exec i (loaded keys message s) := by
  obtain ⟨t, ht⟩ := exec_completes i (loaded keys message s)
  have hcmd : serve (.cmd (encode i)) (loaded keys message s) = .next t :=
    (runCommand_of_decode (decode_encode i) _).trans ht
  rw [ht]
  calc serveAll (adapterScript keys message i) s
    _ = serveAll [.cmd (encode i)] (loaded keys message s) := rfl
    _ = .next t := by rw [serveAll, hcmd]; rfl

section
variable (keys : Key64 × Key64 × Key64) (message : List Byte) (s : State)

@[simp] theorem loaded_K1 : (loaded keys message s).K1 = keys.1 := rfl

@[simp] theorem loaded_K2 : (loaded keys message s).K2 = keys.2.1 := rfl

@[simp] theorem loaded_K3 : (loaded keys message s).K3 = keys.2.2 := rfl

@[simp] theorem loaded_cfg : (loaded keys message s).cfg = s.cfg := rfl

@[simp] theorem loaded_MILEN : (loaded keys message s).MILEN = message.length := rfl

end

theorem messageOperand_loaded {keys : Key64 × Key64 × Key64} {message : List Byte} {s : State}
    (h : fitsCapacity s.cfg message.length = true) : messageOperand (loaded keys message s) = message :=
  messageOperand_writeMessageIn (s.withKeys keys.1 keys.2.1 keys.2.2) message h

/-- The state in which ENCRYPT's command starts (R135). -/
def encryptInput (plaintext key1 key2 key3 : Text) (s : State) : State :=
  loaded (keysOfCharacters key1 key2 key3) (plaintext.map (BitVec.ofNat 8)) s

section
variable (plaintext key1 key2 key3 : Text) (s : State)

@[simp] theorem encryptInput_K1 :
    (encryptInput plaintext key1 key2 key3 s).K1 = (keysOfCharacters key1 key2 key3).1 := rfl

@[simp] theorem encryptInput_K2 :
    (encryptInput plaintext key1 key2 key3 s).K2 = (keysOfCharacters key1 key2 key3).2.1 := rfl

@[simp] theorem encryptInput_K3 :
    (encryptInput plaintext key1 key2 key3 s).K3 = (keysOfCharacters key1 key2 key3).2.2 := rfl

@[simp] theorem encryptInput_cfg : (encryptInput plaintext key1 key2 key3 s).cfg = s.cfg := rfl

@[simp] theorem encryptInput_MILEN : (encryptInput plaintext key1 key2 key3 s).MILEN = plaintext.length :=
  List.length_map _

end

section
variable {plaintext key1 key2 key3 : Text} {s : State} (hf : fitsCapacity s.cfg plaintext.length = true)
include hf

/-- R70, R135: the message MENC reads is the bytes of the plaintext. -/
theorem messageOperand_encryptInput :
    messageOperand (encryptInput plaintext key1 key2 key3 s) = plaintext.map (BitVec.ofNat 8) :=
  messageOperand_loaded (by rwa [List.length_map])

/-- R124, R125, R135: the data MENC prepares, by the characters of the plaintext. -/
theorem preparedByte_encryptInput (p : Bool) :
    preparedByte p (encryptInput plaintext key1 key2 key3 s) = preparedCharacter p plaintext := by
  funext j
  rw [preparedByte, preparedCharacter, encryptInput_MILEN]
  by_cases hj : j < plaintext.length
  · rw [if_pos hj, if_pos hj, ← messageOperand_getD _ _ (by rwa [encryptInput_MILEN]), messageOperand_encryptInput hf]
    simp [List.getD, hj]
  · rw [if_neg hj, if_neg hj]

end

/-- A command that completes is read back. -/
theorem afterCommand_of_completed {α : Type} {t : State} (h : t.reply = .completed)
    (collect : State → Host.Outcome (State × Except Error α) Fault Refusal) :
    afterCommand (.next t) collect = collect t := by
  simp only [afterCommand, h]

/-- 60_exceptions.md R150, log 13: the error of the command is the result. -/
theorem afterCommand_of_error {α : Type} {t : State} {e : Error} (h : t.reply = .error e)
    (collect : State → Host.Outcome (State × Except Error α) Fault Refusal) :
    afterCommand (.next t) collect = .next (t, .error e) := by
  simp only [afterCommand, h]

/-! ### What ENCRYPT returns -/

/-- R135: the record of a state, given the digits of `MO` and of `SB`. -/
def encryptRecord (t : State) (hex sbHex : Text) : EncryptResult where
  cipherText := bytesToText (messageOut t)
  cipherHex := hex
  paddingWasNeeded := padNeededOf t.STATUS
  wasBlockAligned := alignedOf t.STATUS
  cipherHexSingleBlockUnpadded := if sbValidOf t.STATUS then some sbHex else none

/-- R73: `MO` and `SB` are whole bytes, so both have digits. -/
theorem exists_readBack_digits (t : State) :
    ∃ hex sbHex, bitsToHex (bytesToBits (messageOut t)) = some hex ∧ bitsToHex (toBits t.SB) = some sbHex := by
  obtain ⟨hex, hhex⟩ := exists_bitsToHex (bytesToBits (messageOut t)) (by rw [bytesToBits_length]; omega)
  obtain ⟨sbHex, hsb⟩ := exists_bitsToHex (toBits t.SB) (by rw [toBits_length])
  exact ⟨hex, sbHex, hhex, hsb⟩

theorem encryptResult_of_bitsToHex {t : State} {hex sbHex : Text}
    (hhex : bitsToHex (bytesToBits (messageOut t)) = some hex) (hsb : bitsToHex (toBits t.SB) = some sbHex) :
    encryptResult t = .next (t, .ok (encryptRecord t hex sbHex)) := by
  rw [encryptResult, hhex, hsb, bitsToText, bitsToBytes_bytesToBits]
  rfl

/-- R130, R135: the single-block result is the first sixteen digits, on 8 characters with padding. -/
theorem encryptRecord_singleBlock {p : Bool} {s : State} {hex sbHex : Text}
    (hhex : bitsToHex (bytesToBits (messageOut (mencState p s))) = some hex)
    (hsb : bitsToHex (toBits (mencState p s).SB) = some sbHex) :
    (encryptRecord (mencState p s) hex sbHex).cipherHexSingleBlockUnpadded
      = if p = true ∧ s.MILEN = 8 then some (hex.take 16) else none := by
  rw [encryptRecord, mencState_STATUS, sbValidOf_messageStatus]
  simp only [writesComparison_iff]
  split
  case isFalse => rfl
  case isTrue h =>
    obtain ⟨rfl, h8⟩ := h
    have hlen : (mencState true s).MOLEN = 16 := by rw [mencState_MOLEN, h8]; rfl
    have hfirst : (mencState true s).SB = blockAt (fun a => (messageOut (mencState true s)).getD a 0) 0 :=
      (mencState_SB true s).trans ((comparisonResult_eq_blockAt h8).trans
        (blockAt_congr fun a _ ha => (messageOut_getD _ _ (by omega)).symm))
    rw [take_sixteen_of_bitsToHex (by rw [messageOut_length]; omega) hhex (hfirst ▸ hsb)]

/-! ### ENCRYPT and DECRYPT -/

section
variable {key1 key2 key3 : Text} (h1 : allSingleByte (key1.take 8)) (h2 : allSingleByte (key2.take 8))
  (h3 : allSingleByte (key3.take 8))
include h1 h2 h3

/-- R136: DECRYPT of the digits of bytes that fit returns MDEC's output, filtered. -/
theorem decrypt_of_bitsToHex {bs : List Byte} {hex : Text} (hhex : bitsToHex (bytesToBits bs) = some hex) (p : Bool)
    {s : State} (hf : fitsCapacity s.cfg bs.length = true) :
    decrypt hex key1 key2 key3 p s = .next (mdecState p (loaded (keysOfCharacters key1 key2 key3) bs s),
      .ok (bytesToText (sanitize (mdecOutput p (loaded (keysOfCharacters key1 key2 key3) bs s))))) := by
  have hexec := exec_mdec_eq (p := p) (s := loaded (keysOfCharacters key1 key2 key3) bs s) hf
  simp only [decrypt, adapterKeys_of_allSingleByte h1 h2 h3, cleanHex_of_bitsToHex hhex, hexToBits_of_bitsToHex hhex,
    bitsToBytes_bytesToBits, serveAll_adapterScript]
  rw [hexec, afterCommand_of_completed rfl, decryptResult, messageOut_mdecState, bitsToText, bitsToBytes_bytesToBits]

/-- R135: ENCRYPT is MENC on the loaded state. -/
theorem encrypt_eq_afterCommand {plaintext : Text} (ht : allSingleByte plaintext) (p : Bool) (s : State) :
    encrypt plaintext key1 key2 key3 p s
      = afterCommand (exec (.menc p) (encryptInput plaintext key1 key2 key3 s)) encryptResult := by
  simp only [encrypt, adapterKeys_of_allSingleByte h1 h2 h3, textToBits_of_allSingleByte ht, bitsToBytes_bytesToBits,
    serveAll_adapterScript, encryptInput]

/-- R135: on a plaintext that fits ENCRYPT answers MENC's state and its record. -/
theorem encrypt_of_fits {plaintext : Text} (ht : allSingleByte plaintext) (p : Bool) {s : State}
    (hf : fitsCapacity s.cfg plaintext.length = true) :
    ∃ hex sbHex,
      bitsToHex (bytesToBits (messageOut (mencState p (encryptInput plaintext key1 key2 key3 s)))) = some hex ∧
      bitsToHex (toBits (mencState p (encryptInput plaintext key1 key2 key3 s)).SB) = some sbHex ∧
      encrypt plaintext key1 key2 key3 p s = .next (mencState p (encryptInput plaintext key1 key2 key3 s),
        .ok (encryptRecord (mencState p (encryptInput plaintext key1 key2 key3 s)) hex sbHex)) := by
  have hexec := exec_menc_eq (p := p) (s := encryptInput plaintext key1 key2 key3 s) (by simpa using hf)
  obtain ⟨hex, sbHex, hhex, hsb⟩ := exists_readBack_digits (mencState p (encryptInput plaintext key1 key2 key3 s))
  refine ⟨hex, sbHex, hhex, hsb, ?_⟩
  rw [encrypt_eq_afterCommand h1 h2 h3 ht, hexec, afterCommand_of_completed rfl, encryptResult_of_bitsToHex hhex hsb]

/-- R154, log 13: on a plaintext that does not fit MENC's `E_CAP` is ENCRYPT's result. -/
theorem encrypt_of_not_fits {plaintext : Text} (ht : allSingleByte plaintext) (p : Bool) {s : State}
    (hf : fitsCapacity s.cfg plaintext.length = false) :
    ∃ t, encrypt plaintext key1 key2 key3 p s = .next (t, .error (.eCap plaintext.length)) := by
  have hexec : exec (.menc p) (encryptInput plaintext key1 key2 key3 s)
      = .next (raise (encryptInput plaintext key1 key2 key3 s) (.eCap plaintext.length)) := by
    refine (if_neg ?_).trans (by rw [encryptInput_MILEN])
    simp [hf]
  exact ⟨_, by rw [encrypt_eq_afterCommand h1 h2 h3 ht, hexec, afterCommand_of_error (raise_reply _ _)]⟩

end

/-- Settles O55: ENCRYPT answers MENC's state on the loaded plaintext and its record, or MENC's `E_CAP`. -/
theorem encryptReportsTheCommand : Obligations.EncryptReportsTheCommand := by
  refine fun plaintext key1 key2 key3 p s ht h1 h2 h3 => ⟨fun hf => ?_, encrypt_of_not_fits h1 h2 h3 ht p⟩
  obtain ⟨hex, sbHex, hhex, hsb, hencrypt⟩ := encrypt_of_fits h1 h2 h3 ht p hf
  have hlen := length_of_bitsToHex hhex
  rw [bytesToBits_length, messageOut_length] at hlen
  have hflags := messageStatus_alignment plaintext.length (writesComparison p plaintext.length)
  have hsingle := encryptRecord_singleBlock hhex hsb
  rw [encryptInput_MILEN] at hsingle
  refine ⟨_, _, hencrypt, by simp, fun i hi => ?_, rfl, hhex, ?_, ?_, ?_, hsingle⟩
  · rw [blockAt_mencState_of_lt hi, preparedByte_encryptInput hf]
    rfl
  · show hex.length = _
    omega
  · simpa [encryptRecord] using hflags.1
  · simpa [encryptRecord] using hflags.2

/-- Settles O58: MDEC decrypts MENC's output to the prepared plaintext, of which the filter leaves what it leaves of the
plaintext, whatever the flags are. -/
theorem decryptUndoesEncryptUpToFilter : Obligations.DecryptUndoesEncryptUpToFilter := by
  intro plaintext key1 key2 key3 p p' s hf ht h1 h2 h3
  have hfits : fitsCapacity s.cfg plaintext.length = true := fitsCapacity_of_le (le_preparedLength p _) hf
  obtain ⟨hex, sbHex, hhex, hsb, hencrypt⟩ := encrypt_of_fits h1 h2 h3 ht p hfits
  rw [messageOut_mencState] at hhex
  have hout : fitsCapacity (mencState p (encryptInput plaintext key1 key2 key3 s)).cfg
      (mencOutput p (encryptInput plaintext key1 key2 key3 s)).length = true := by simpa using hf
  have hplain : mdecOutput false (loaded (keysOfCharacters key1 key2 key3)
      (mencOutput p (encryptInput plaintext key1 key2 key3 s)) (mencState p (encryptInput plaintext key1 key2 key3 s)))
      = prepare (plaintext.map (BitVec.ofNat 8)) p := by
    rw [mdecOutput_of_mencOutput (messageOperand_loaded hout) (by simp) (by simp) (by simp),
      messageOperand_encryptInput hfits]
  have hdecrypt := decrypt_of_bitsToHex h1 h2 h3 hhex p' hout
  rw [sanitize_mdecOutput, hplain, sanitize_prepare, bytesToText_sanitize ht] at hdecrypt
  exact ⟨_, _, _, hencrypt, hdecrypt⟩

end Sys2Proof.Machine
end

section
/-! PROOFS. Errors and idle steps (60_exceptions.md): what `E_ILLOP`, `E_CAP` and `E_CODEPOINT` leave, that no error is
sticky (R157), and that hexadecimal is never malformed (R155). -/

namespace Sys2Proof.Machine

open Sys2Proof.Spec

/-! ### The states the errors leave -/

/-- R153, R156: `E_ILLOP` has code 3. -/
theorem raise_eIllop (s : State) (c : BitVec 8) :
    raise s (.eIllop c) = { s with STATUS := 0x30, reply := .error (.eIllop c) } := by
  have hstatus : statusWord false false false 3 = 0x30 := by decide
  rw [raise, Error.code, hstatus]

/-- R154, R156: `E_CAP` has code 4. -/
theorem raise_eCap (s : State) (n : Nat) : raise s (.eCap n) = { s with STATUS := 0x40, reply := .error (.eCap n) } := by
  have hstatus : statusWord false false false 4 = 0x40 := by decide
  rw [raise, Error.code, hstatus]

/-! ### Idle steps and illegal words -/

/-- Settles O7: a step is idle or serves a pending action, and an empty queue has none. -/
theorem idleStepHoldsState : Obligations.IdleStepHoldsState := by
  intro s hs
  rcases step_cases s with ⟨_, hidle⟩ | ⟨a, rest, hpending, _⟩
  · exact hidle
  · cases hs.symm.trans hpending

/-- R153, R158: a word that is not one of the twelve does not decode, so it takes `E_ILLOP`. -/
theorem runCommand_of_not_mem_legalWords {c : BitVec 8} (h : c ∉ legalWords) (s : State) :
    runCommand c s = .next (raise s (.eIllop c)) := by
  rcases runCommand_cases c s with ⟨i, hi, _⟩ | ⟨_, _, hraise⟩
  · exact absurd ((legalWordsAreTheTwelve c).1 ⟨i, hi⟩) h
  · exact hraise

/-- Settles O6: serving the word takes `E_ILLOP`. -/
theorem illegalCommandTakesEIllop : Obligations.IllegalCommandTakesEIllop := by
  intro s c rest hs hc
  calc step s
    _ = runCommand c (s.withHost rest) := step_of_pending hs
    _ = .next (raise (s.withHost rest) (.eIllop c)) := runCommand_of_not_mem_legalWords hc _
    _ = .next { s with host := rest, STATUS := 0x30, reply := .error (.eIllop c) } := by rw [raise_eIllop]; rfl

/-! ### Messages that do not fit -/

theorem fitsCapacity_eq_false {cfg : Config} {k n : Nat} (hk : cfg.capacityBlocks = some k) (hn : 8 * k < n) :
    fitsCapacity cfg n = false := by
  rw [fitsCapacity, hk]
  exact decide_eq_false hn.not_ge

/-- R154: a message operation takes `E_CAP` on a message that does not fit. -/
theorem exec_message_of_not_fits {i : Instr} {p : Bool} {s : State} (hi : i = .menc p ∨ i = .mdec p)
    (h : fitsCapacity s.cfg s.MILEN = false) : exec i s = .next (raise s (.eCap s.MILEN)) := by
  rcases hi with rfl | rfl <;> exact if_neg (by simp [h])

/-- Settles O37: `exec_message_of_not_fits`, for a capacity of `8k` bytes. -/
theorem oversizeMessageTakesECap : Obligations.OversizeMessageTakesECap := by
  intro i p s k hi hk hn
  rw [exec_message_of_not_fits hi (fitsCapacity_eq_false hk hn), raise_eCap]

/-! ### Errors are not sticky -/

/-- R157: a message operation after an error; whether the message fits is as before, and either end of the operation
rewrites `STATUS` and the reply. -/
theorem exec_message_raise {i : Instr} {p : Bool} (hi : i = .menc p ∨ i = .mdec p) (s : State) (e : Error) :
    exec i (raise s e) = exec i s := by
  cases hf : fitsCapacity s.cfg s.MILEN with
  | false => exact (exec_message_of_not_fits (s := raise s e) hi hf).trans (exec_message_of_not_fits hi hf).symm
  | true =>
    rcases hi with rfl | rfl
    · exact (exec_menc_of_fits (s := raise s e) hf).trans (exec_menc_of_fits hf).symm
    · exact (exec_mdec_of_fits (s := raise s e) hf).trans (exec_mdec_of_fits hf).symm

/-- Settles O39: no operation reads `STATUS` or the reply, and each rewrites both. -/
theorem errorIsNotSticky : Obligations.ErrorIsNotSticky := by
  intro i s e
  cases i with
  | menc p => exact exec_message_raise (.inl rfl) s e
  | mdec p => exact exec_message_raise (.inr rfl) s e
  | subst | ksched | ffunc | round | desenc | desdec | tenc | tdec => rfl

/-! ### The first wide character -/

/-- The first wide character of two texts is the first text's, or the second's when the first has none. -/
theorem find?_wide_append {x y : Text} {c : CodePoint} (h : (x ++ y).find? (255 < ·) = some c) :
    x.find? (255 < ·) = some c ∨ allSingleByte x ∧ y.find? (255 < ·) = some c := by
  by_cases hx : allSingleByte x
  · have hnone : x.find? (255 < ·) = none := List.find?_eq_none.2 fun d hd => by simpa using hx d hd
    rw [List.find?_append, hnone, Option.none_or] at h
    exact .inr ⟨hx, h⟩
  · obtain ⟨d, hd⟩ := exists_find?_of_not_allSingleByte hx
    rw [List.find?_append, hd, Option.some_or] at h
    exact .inl (hd.trans h)

theorem textToBits_of_find? {t : Text} {c : CodePoint} (h : t.find? (255 < ·) = some c) :
    textToBits t = .error (.eCodepoint c) := by
  rw [textToBits, textToBytes_of_find? h]
  rfl

/-- R132, R152: a key is examined after normalisation, by its first 8 characters. -/
theorem keyFromText_of_find? {key : Text} {c : CodePoint} (h : (key.take 8).find? (255 < ·) = some c) :
    keyFromText key = .error (.eCodepoint c) := by
  have hnorm : (normalizeKey key).find? (255 < ·) = some c := by
    rw [normalizeKey, List.find?_append, h, Option.some_or]
  rw [keyFromText, textToBits_of_find? hnorm]
  rfl

/-- R152: the keys are examined in order. -/
theorem adapterKeys_of_find? {key1 key2 key3 : Text} {c : CodePoint}
    (h : (key1.take 8 ++ key2.take 8 ++ key3.take 8).find? (255 < ·) = some c) :
    adapterKeys key1 key2 key3 = .error (.eCodepoint c) := by
  rcases find?_wide_append h with h | ⟨h12, h⟩
  · rcases find?_wide_append h with h | ⟨h1, h⟩
    · rw [adapterKeys, keyFromText_of_find? h]
      rfl
    · rw [adapterKeys, keyFromText_of_allSingleByte h1, keyFromText_of_find? h]
      rfl
  · obtain ⟨h1, h2⟩ := List.forall_mem_append.1 h12
    rw [adapterKeys, keyFromText_of_allSingleByte h1, keyFromText_of_allSingleByte h2, keyFromText_of_find? h]
    rfl

/-- Settles O56: the keys' first wide character is the error before the plaintext is looked at, and the plaintext's when
the keys have none. -/
theorem encryptRejectsFirstWideCharacter : Obligations.EncryptRejectsFirstWideCharacter := by
  intro plaintext key1 key2 key3 p s c h
  rcases find?_wide_append h with hkeys | ⟨hkeys, hplain⟩
  · rw [encrypt, adapterKeys_of_find? hkeys]
  · obtain ⟨h12, h3⟩ := List.forall_mem_append.1 hkeys
    obtain ⟨h1, h2⟩ := List.forall_mem_append.1 h12
    simp only [encrypt, adapterKeys_of_allSingleByte h1 h2 h3, textToBits_of_find? hplain]

/-! ### Arbitrary hexadecimal -/

/-- 30_encoding.md R50: the characters that have a value. -/
theorem isSome_hexValue_iff {c : CodePoint} :
    (hexValue c).isSome = true ↔ (48 ≤ c ∧ c ≤ 57) ∨ (65 ≤ c ∧ c ≤ 70) ∨ (97 ≤ c ∧ c ≤ 102) := by
  constructor
  · rw [hexValue]
    split_ifs with hdecimal hupper hlower
    · exact fun _ => .inl hdecimal
    · exact fun _ => .inr (.inl hupper)
    · exact fun _ => .inr (.inr hlower)
    · exact nofun
  · intro hc
    obtain ⟨v, _, hv, _⟩ := exists_hexValue hc
    exact Option.isSome_of_eq_some hv

/-- R133: cleaning keeps as many characters as there are digits. -/
theorem length_filter_hexValue (t : Text) : (t.filter fun c => (hexValue c).isSome).length = hexDigitCount t := by
  refine congrArg List.length (List.filter_congr fun c _ => Bool.eq_iff_iff.2 (isSome_hexValue_iff.trans ?_))
  simp only [Bool.or_eq_true, Bool.and_eq_true, decide_eq_true_eq, or_assoc]

/-- R133: a cleaned text is digits only. -/
theorem isSome_hexValue_of_mem_cleanHex {t : Text} {c : CodePoint} (hc : c ∈ cleanHex t) : (hexValue c).isSome = true := by
  have hkept : ∀ d ∈ t.filter fun d => (hexValue d).isSome, (hexValue d).isSome = true :=
    fun d hd => (List.mem_filter.1 hd).2
  simp only [cleanHex] at hc
  split at hc
  · rcases List.mem_append.1 hc with hc | hc
    · exact hkept c hc
    · rw [List.mem_singleton.1 hc]
      rfl
  · exact hkept c hc

/-- R133: a cleaned text has two digits for every byte. -/
theorem cleanHex_length (t : Text) : (cleanHex t).length = 2 * ((hexDigitCount t + 1) / 2) := by
  simp only [cleanHex, length_filter_hexValue]
  split
  · rw [List.length_append, length_filter_hexValue, List.length_singleton]
    omega
  · rw [length_filter_hexValue]
    omega

/-- R72, R133: a cleaned text converts, four bits to a digit. -/
theorem exists_hexToBits_cleanHex (t : Text) :
    ∃ b, hexToBits (cleanHex t) = some b ∧ b.length = 8 * ((hexDigitCount t + 1) / 2) := by
  obtain ⟨b, hb, hhex⟩ := exists_hexToBits fun c hc => isSome_hexValue_iff.1 (isSome_hexValue_of_mem_cleanHex hc)
  have hlen := length_of_bitsToHex hhex
  rw [List.length_map, cleanHex_length] at hlen
  exact ⟨b, hb, by omega⟩

/-- R69: one byte for eight bits. -/
theorem bitsToBytes_length {n : Nat} {b : Bits} (h : b.length = 8 * n) : (bitsToBytes b).length = n := by
  induction n generalizing b with
  | zero =>
    rw [List.length_eq_zero_iff.1 h]
    rfl
  | succ n ih =>
    match b, h with
    | _ :: _ :: _ :: _ :: _ :: _ :: _ :: _ :: rest, h => exact congrArg (· + 1) (ih (Nat.add_right_cancel (m := 8) h))

/-- R136: for single-byte keys DECRYPT is MDEC on the loaded bytes of the digits, two to a byte. -/
theorem decrypt_eq_afterCommand {key1 key2 key3 : Text} (h1 : allSingleByte (key1.take 8))
    (h2 : allSingleByte (key2.take 8)) (h3 : allSingleByte (key3.take 8)) (hex : Text) (p : Bool) (s : State) :
    ∃ bs : List Byte, bs.length = (hexDigitCount hex + 1) / 2 ∧ decrypt hex key1 key2 key3 p s
      = afterCommand (exec (.mdec p) (loaded (keysOfCharacters key1 key2 key3) bs s))
        fun t => .next (t, .ok (decryptResult t)) := by
  obtain ⟨b, hb, hlen⟩ := exists_hexToBits_cleanHex hex
  refine ⟨bitsToBytes b, bitsToBytes_length hlen, ?_⟩
  simp only [decrypt, adapterKeys_of_allSingleByte h1 h2 h3, hb, serveAll_adapterScript]

/-- Settles O57: with single-byte keys DECRYPT ends as MDEC does on the loaded bytes; a wide character in a key comes
first. -/
theorem decryptAcceptsAnyHex : Obligations.DecryptAcceptsAnyHex := by
  refine fun hex key1 key2 key3 p s => ⟨fun h1 h2 h3 => ?_, fun c hc => by rw [decrypt, adapterKeys_of_find? hc]⟩
  obtain ⟨bs, hlen, hdecrypt⟩ := decrypt_eq_afterCommand h1 h2 h3 hex p s
  rw [← hlen, hdecrypt]
  refine ⟨fun hf => ?_, fun hf => ?_⟩
  · have hexec := exec_mdec_eq (p := p) (s := loaded (keysOfCharacters key1 key2 key3) bs s) hf
    exact ⟨_, _, by rw [hexec, afterCommand_of_completed rfl]⟩
  · have hexec : exec (.mdec p) (loaded (keysOfCharacters key1 key2 key3) bs s)
        = .next (raise (loaded (keysOfCharacters key1 key2 key3) bs s) (.eCap bs.length)) :=
      exec_message_of_not_fits (.inr rfl) hf
    exact ⟨_, by rw [hexec, afterCommand_of_error (raise_reply _ _)]⟩

end Sys2Proof.Machine
end

section
/-! PROOFS. Reset (70_reset_and_hazards.md R170): the values of 10_state.md R24. -/

namespace Sys2Proof.Machine

open Sys2Proof.Spec

/-- R24: every subkey is zero, and the buffers hold no byte. -/
theorem hasResetValues_reset : hasResetValues State.reset :=
  ⟨rfl, rfl, rfl, rfl, rfl, rfl, rfl, fun n => Vector.getElem_replicate n.isLt, rfl, rfl, rfl, rfl, rfl,
    fun a => ⟨Memory.read?_nil a, Memory.read?_nil a⟩⟩

/-- R170: a reset puts every field that R24 names at its value in `State.reset`. -/
theorem hasResetValues_resetNow (s : State) : hasResetValues (resetNow s) := by
  simpa [hasResetValues] using hasResetValues_reset

/-- Settles O43: a step that serves a reset is `resetNow` of the state with the reset taken off the queue. -/
theorem resetValuesAreZero : Obligations.ResetValuesAreZero :=
  ⟨hasResetValues_reset, fun s rest h => ⟨resetNow (s.withHost rest), step_of_pending h, hasResetValues_resetNow _,
    resetNow_cfg _, resetNow_host _⟩⟩

end Sys2Proof.Machine
end

section
/-! PROOFS. A `WRM` longer than the message buffer and the MENC after it (60_exceptions.md R154). -/

namespace Sys2Proof.Machine

/-- The two steps that serve a `WRM` and a command: the operation on the state in which the message is written. -/
theorem run_of_wrm_cmd {s t : State} {bs : List Byte} {i : Instr} (hs : s.host = [.wrm bs, .cmd (encode i)])
    (ht : exec i (((s.withHost []).writeMessageIn bs).withReply .completed) = .next t) :
    Host.Core.run Sys2Proof.core 2 s = .next t := by
  have hwrite : step s = .next (((s.withHost [.cmd (encode i)]).writeMessageIn bs).withReply .completed) :=
    step_of_pending hs
  have hcmd : step (((s.withHost [.cmd (encode i)]).writeMessageIn bs).withReply .completed) = .next t :=
    (stepRunsDecodedCommand _ _ _ i rfl (decode_encode i)).trans ht
  calc Host.Core.run Sys2Proof.core 2 s
    _ = Host.Core.run Sys2Proof.core 1 _ := run_succ_of_next (M := Sys2Proof.core) 1 s hwrite
    _ = .next t := run_succ_of_next (M := Sys2Proof.core) 0 _ hcmd

/-- Settles O38: the `WRM` completes with `MILEN` its whole count, so MENC takes `E_CAP`, and neither step writes a
result register. -/
theorem overlongWriteThenMencTakesECap : Obligations.OverlongWriteThenMencTakesECap := by
  intro s k bs p hk hn hs
  have hmenc := oversizeMessageTakesECap (.menc p) p (((s.withHost []).writeMessageIn bs).withReply .completed) k
    (.inl rfl) hk hn
  exact ⟨_, run_of_wrm_cmd hs hmenc, rfl, rfl, ⟨rfl, fun _ => rfl⟩, rfl, rfl, rfl, rfl⟩

end Sys2Proof.Machine
end
